-- ==== Sys2Proof/Word.lean ====
section
/-! DEFINITION. The word types of the core: frame bytes and 16-bit values (00_scope.md R4, R5; 10_state.md R20). -/

namespace Sys2Proof

/-- A `u8`: a frame byte, an 8-bit register, a hidden state byte (R5, R20). -/
abbrev Byte := BitVec 8

/-- A `u16`: a 16-bit register, a register-buffer word, a CRC, a command word (R4, R5). -/
abbrev Word := BitVec 16

end Sys2Proof
end

