-- ==== Sys2Proof/Syntax.lean ====
section
/-! DEFINITION. The commands of the core, one constructor per row of spec/opcode_table.json (30_encoding.md R70 to R72). -/

namespace Sys2Proof

/-- A decoded command. A constructor carries exactly the flags of the command word its command uses (the table of R71);
a bit the command ignores is no part of it (R73). Every operand besides is a whole operand register (R70, R79). -/
inductive Instr where
  /-- `OP` = 0x0, reserved: the pseudo-command ILLEGAL (R72, R180). -/
  | illegal0
  /-- `OP` = 0x1, `CRC16` (R103); `fbv`: the buffer reference is valid. -/
  | crc16 (fbv : Bool)
  /-- `OP` = 0x2, `VALID_QTY` (R114). -/
  | validQty
  /-- `OP` = 0x3, `VALID_BC` (R115). -/
  | validBc
  /-- `OP` = 0x4, `VALID_SID` (R116). -/
  | validSid
  /-- `OP` = 0x5, `VALID_ADDR` (R117). -/
  | validAddr
  /-- `OP` = 0x6, `ENC_REQ` (R120); `fbv`: the output buffer reference is valid. -/
  | encReq (fbv : Bool)
  /-- `OP` = 0x7, `DEC_RSP` (R125); `fbv`, `rbv`: the input and the output buffer reference are valid. -/
  | decRsp (fbv rbv : Bool)
  /-- `OP` = 0x8, `SET_ID` (R140). -/
  | setId
  /-- `OP` = 0x9, `DEC_REQ` (R145); `fbv`: the input buffer reference is valid. -/
  | decReq (fbv : Bool)
  /-- `OP` = 0xA, `ENC_RSP` (R155); `fbv`, `rbv`: the output and the input buffer reference are valid. -/
  | encRsp (fbv rbv : Bool)
  /-- `OP` = 0xB, reserved (R72, R180). -/
  | illegalB
  /-- `OP` = 0xC, reserved (R72, R180). -/
  | illegalC
  /-- `OP` = 0xD, reserved (R72, R180). -/
  | illegalD
  /-- `OP` = 0xE, reserved (R72, R180). -/
  | illegalE
  /-- `OP` = 0xF, reserved (R72, R180). -/
  | illegalF
  deriving DecidableEq, Repr

end Sys2Proof
end

