-- ==== Sys2Proof/Config.lean ====
section
/-! DEFINITION. The parameters of 00_scope.md R4 and the free values of the spec (93_implementation_defined.md U7). The bus placement parameters BASE_REG, BASE_FB, BASE_RB and REG_STRIDE are OPEN and no bus is modelled (R59; log 7). -/

namespace Sys2Proof.Config

/-- `CRC_POLY` (R4). -/
abbrev crcPoly : Word := 0xA001

/-- `CRC_INIT` (R4). -/
abbrev crcInit : Word := 0xFFFF

/-- `FC_READ_HOLDING` (R4, R83). -/
abbrev fcReadHolding : Byte := 0x03

/-- `MAX_QTY`, the most registers a frame carries (R4, R83). -/
abbrev maxQty : Nat := 125

/-- `MAX_SID` (R4, R83). -/
abbrev maxSid : Nat := 247

/-- `BROADCAST_ID` (R4, R83). -/
abbrev broadcastId : Byte := 0

/-- `MIN_BC` (R4). -/
abbrev minBc : Nat := 2

/-- `MAX_BC` (R4). -/
abbrev maxBc : Nat := 250

/-- `REQ_HDR_LEN`: id, function code, address, quantity (R4). -/
abbrev reqHdrLen : Nat := 6

/-- `CRC_LEN` (R4). -/
abbrev crcLen : Nat := 2

/-- `REQ_FRAME_LEN` (R4). -/
abbrev reqFrameLen : Nat := 8

/-- `RSP_HDR_LEN`: id, function code, byte count (R4). -/
abbrev rspHdrLen : Nat := 3

/-- `RSP_FRAME_LEN(q)`, the length of a response frame with `q` registers (R4, R77). -/
abbrev rspFrameLen (q : Nat) : Nat := 5 + 2 * q

/-- `REQ_CAP_MIN`, the capacity `ENC_REQ` checks: 6, kept against the bounds promise (R4, R122; 90_conflicts.md C1). -/
abbrev reqCapMin : Nat := 6

/-- `FBUF_SIZE` (R4, R27). -/
abbrev fbufSize : Nat := 256

/-- `RBUF_SIZE` (R4, R28). -/
abbrev rbufSize : Nat := 125

/-- `DEVID_RESET` (R4, R33; U6). -/
abbrev devidReset : Byte := 0x00

/-- `LASTREQ_RESET` (R4, R33; U6). -/
abbrev lastreqReset : Byte := 0x00

/-- The byte frame-buffer cell `a` holds after the reset of epoch `e`: free, under no law (R33, U7; log 2). -/
opaque freeFbByte (e a : Nat) : Byte

/-- The word register-buffer cell `i` holds after the reset of epoch `e`: free, under no law (R33, U7; log 2). -/
opaque freeRbWord (e i : Nat) : Word

/-- What an address that a frame-buffer list does not list reads as: free. In a well-formed buffer every address of the space is listed (log 3). -/
opaque unlistedFbByte (a : Nat) : Byte

/-- What an index that a register-buffer list does not list reads as: free. In a well-formed buffer every index of the space is listed (log 3). -/
opaque unlistedRbWord (i : Nat) : Word

end Sys2Proof.Config
end

