-- ==== Sys2Proof/Machine/Moves.lean ====
section
/-! DEFINITION. What comes into the core and what it answers: the six host moves of 20_memory.md R51, the reset event of 70_reset_and_hazards.md R190, the replies, and the names of the REG space (10_state.md R32). -/

namespace Sys2Proof.Machine

/-- A move of the host (R7, R51). Indices and addresses are plain numbers: a move outside its space can be written down, and has no meaning (U9). -/
inductive HostMove where
  /-- Write `v` to register `i`; index 0 is `CMD` and starts a command (R23). -/
  | regWrite (i : Nat) (v : Word)
  /-- Read register `i`. -/
  | regRead (i : Nat)
  /-- Write byte `v` to frame-buffer address `a`. -/
  | fbWrite (a : Nat) (v : Byte)
  /-- Read frame-buffer address `a`. -/
  | fbRead (a : Nat)
  /-- Write word `v` to register-buffer index `i`. -/
  | rbWrite (i : Nat) (v : Word)
  /-- Read register-buffer index `i`. -/
  | rbRead (i : Nat)
  deriving DecidableEq, Repr

/-- What the outside world does to the core in one step: a host move, or a reset, which is no host move (R190). -/
inductive Input where
  /-- The reset event (R190). -/
  | reset
  /-- A host move (R7). -/
  | host (m : HostMove)
  deriving DecidableEq, Repr

/-- What a read move answers (R51): a 16-bit value from REG or RB, a byte from FB. -/
inductive Reply where
  /-- The reply to a `RegRead` or an `RbRead`. -/
  | word (v : Word)
  /-- The reply to an `FbRead`. -/
  | byte (v : Byte)
  deriving DecidableEq, Repr

/-- The named registers of the REG space (R32). Indices 12 to 15 have no name: they are reserved. -/
inductive RegName where
  | cmd | status | result | sid | addr | qty | len | ocap | oSid | oAddr | oQty | bc
  deriving DecidableEq, Repr

end Sys2Proof.Machine
end

