-- ==== Sys2Proof/WellFormed.lean ====
section
/-! DEFINITION. Well-formedness: which commands exist (all of them: the opcode table is total, 60_exceptions.md R180) and which host moves have a meaning (the preconditions of 20_memory.md R51). -/

namespace Sys2Proof

/-- Every command is well formed: its fields are the flags it uses, and each value of a flag is a form of the command (R70, R71, R180). -/
def Instr.wf (i : Instr) : Bool :=
  match i with
  | .illegal0 => true
  | .crc16 _ => true
  | .validQty => true
  | .validBc => true
  | .validSid => true
  | .validAddr => true
  | .encReq _ => true
  | .decRsp _ _ => true
  | .setId => true
  | .decReq _ => true
  | .encRsp _ _ => true
  | .illegalB => true
  | .illegalC => true
  | .illegalD => true
  | .illegalE => true
  | .illegalF => true

/-- The number of REG indices: 0 to 15 exist (R32, R50). -/
abbrev regCount : Nat := 16

/-- The precondition of a host move (R51). -/
def Machine.HostMove.wf (m : Machine.HostMove) : Bool :=
  match m with
  | .regWrite i _ => decide (i < regCount)
  | .regRead i => decide (i < regCount)
  | .fbWrite a _ => decide (a < Config.fbufSize)
  | .fbRead a => decide (a < Config.fbufSize)
  | .rbWrite i _ => decide (i < Config.rbufSize)
  | .rbRead i => decide (i < Config.rbufSize)

/-- A reset is always admitted (R190), a host move when its precondition holds (R10, R51). -/
def Machine.Input.wf (x : Machine.Input) : Bool :=
  match x with
  | .reset => true
  | .host m => m.wf

end Sys2Proof
end

