-- ==== Sys2Proof/Decode.lean ====
section
/-! DEFINITION. The command word: its fields, the decoder (total on all 65536 words, R180), the rejection of a value no command word can carry, and the encoder (30_encoding.md R70 to R73). -/

namespace Sys2Proof

/-- `OP`, bits [3:0] (R70). -/
def wordOp (w : Word) : BitVec 4 := w.extractLsb' 0 4

/-- `FBV`, bit 8 (R70). -/
def wordFbv (w : Word) : Bool := w.getLsbD 8

/-- `RBV`, bit 9 (R70). -/
def wordRbv (w : Word) : Bool := w.getLsbD 9

/-- The command an opcode selects, given the two flags (the opcode map, R71, R72). -/
def commandOf (op : Nat) (fbv rbv : Bool) : Instr :=
  match op with
  | 0x0 => .illegal0
  | 0x1 => .crc16 fbv
  | 0x2 => .validQty
  | 0x3 => .validBc
  | 0x4 => .validSid
  | 0x5 => .validAddr
  | 0x6 => .encReq fbv
  | 0x7 => .decRsp fbv rbv
  | 0x8 => .setId
  | 0x9 => .decReq fbv
  | 0xA => .encRsp fbv rbv
  | 0xB => .illegalB
  | 0xC => .illegalC
  | 0xD => .illegalD
  | 0xE => .illegalE
  | _ => .illegalF

/-- The command of a command word: bits [3:0] alone pick it (R71), and of the others it keeps the flags it uses (R73). -/
def decode (w : Word) : Instr := commandOf (wordOp w).toNat (wordFbv w) (wordRbv w)

/-- Why a value is no command word. -/
inductive DecodeReject where
  /-- The value has a bit above bit 15: no 16-bit register write carries it (R51, R70, R84). -/
  | widerThanCommandWord
  deriving DecidableEq, Repr

/-- The decoder on an arbitrary number: a command word has one length, 16 bits (R70, R84). -/
def decodeValue (n : Nat) : Except DecodeReject Instr :=
  if n < 65536 then .ok (decode (BitVec.ofNat 16 n)) else .error .widerThanCommandWord

/-- The command the decoder reads from an instruction of `nbits` bits `w`, every bit above them 0. -/
def decodeTableWord (nbits w : Nat) : Option Instr :=
  match decodeValue (w % 2 ^ nbits) with
  | .ok i => some i
  | .error _ => none

/-- The `OP` of a command (R71, R72). -/
def Instr.op (i : Instr) : BitVec 4 :=
  match i with
  | .illegal0 => 0x0
  | .crc16 _ => 0x1
  | .validQty => 0x2
  | .validBc => 0x3
  | .validSid => 0x4
  | .validAddr => 0x5
  | .encReq _ => 0x6
  | .decRsp _ _ => 0x7
  | .setId => 0x8
  | .decReq _ => 0x9
  | .encRsp _ _ => 0xA
  | .illegalB => 0xB
  | .illegalC => 0xC
  | .illegalD => 0xD
  | .illegalE => 0xE
  | .illegalF => 0xF

/-- The `FBV` bit a host writes for a command: the command's own, 0 where it uses none (R71, R73). -/
def Instr.fbvBit (i : Instr) : Bool :=
  match i with
  | .crc16 f => f
  | .encReq f => f
  | .decRsp f _ => f
  | .decReq f => f
  | .encRsp f _ => f
  | .illegal0 => false
  | .validQty => false
  | .validBc => false
  | .validSid => false
  | .validAddr => false
  | .setId => false
  | .illegalB => false
  | .illegalC => false
  | .illegalD => false
  | .illegalE => false
  | .illegalF => false

/-- The `RBV` bit a host writes for a command: the command's own, 0 where it uses none (R71, R73). -/
def Instr.rbvBit (i : Instr) : Bool :=
  match i with
  | .decRsp _ r => r
  | .encRsp _ r => r
  | .illegal0 => false
  | .crc16 _ => false
  | .validQty => false
  | .validBc => false
  | .validSid => false
  | .validAddr => false
  | .encReq _ => false
  | .setId => false
  | .decReq _ => false
  | .illegalB => false
  | .illegalC => false
  | .illegalD => false
  | .illegalE => false
  | .illegalF => false

/-- The bits of a command word that its command reads: `OP` and the flags it uses; every other bit is ignored (R71, R73). -/
def Instr.usedMask (i : Instr) : Word :=
  match i with
  | .crc16 _ => 0x010F
  | .encReq _ => 0x010F
  | .decReq _ => 0x010F
  | .decRsp _ _ => 0x030F
  | .encRsp _ _ => 0x030F
  | .illegal0 => 0x000F
  | .validQty => 0x000F
  | .validBc => 0x000F
  | .validSid => 0x000F
  | .validAddr => 0x000F
  | .setId => 0x000F
  | .illegalB => 0x000F
  | .illegalC => 0x000F
  | .illegalD => 0x000F
  | .illegalE => 0x000F
  | .illegalF => 0x000F

/-- A command word from its fields, the reserved bits [15:10] and [7:4] written as 0 (R70, R73): bit 15 first. -/
def assembleWord (rbv fbv : Bool) (op : BitVec 4) : Word :=
  (0 : BitVec 6) ++ (BitVec.ofBool rbv ++ (BitVec.ofBool fbv ++ ((0 : BitVec 4) ++ op)))

/-- The word a host writes to `CMD` for a command (R70, R71, R73, R81). -/
def encode (i : Instr) : Word := assembleWord i.rbvBit i.fbvBit i.op

end Sys2Proof
end

