-- ==== Sys2Proof/Machine/State.lean ====
section
/-! DEFINITION. The state of the core (10_state.md R20), the reasons a step can stop, and the state after reset (R33, R190). -/

namespace Sys2Proof.Machine

/-- The outcome code of a command, `STATUS.ERR` (R24, R171). The twelve legal codes and no other: 11 to 14 never appear (R24; D7; log 9). -/
inductive Err where
  | ok
  | invalidArgument
  | invalidRange
  | bufferTooSmall
  | outputTooSmall
  | identityMismatch
  | slaveMismatch
  | functionMismatch
  | integrityError
  | invalidByteCount
  | encodeFail
  | illegalCommand
  deriving DecidableEq, Repr

/-- Why the machine stops with a fault. There is no such reason: no command outcome ends a run (R10, R170; log 10). -/
inductive Fault where
  deriving DecidableEq, Repr

/-- Why a step has no meaning. -/
inductive Refusal where
  /-- An instruction that has no meaning yet, by its mnemonic in the opcode table: raised by `exec` alone; safe. -/
  | notModelled (mnemonic : String)
  /-- A `RegWrite` or `RegRead` with an index above 15: raised by `hostMove`; the spec has a model refuse it (R51, U9; log 6); safe. -/
  | regIndexOutOfRange (i : Nat)
  /-- An `FbWrite` or `FbRead` with an address above 255: raised by `hostMove` (R51, U9; log 6); safe. -/
  | fbAddressOutOfRange (a : Nat)
  /-- An `RbWrite` or `RbRead` with an index above 124: raised by `hostMove` (R51, U9; log 6); safe. -/
  | rbIndexOutOfRange (i : Nat)
  deriving DecidableEq, Repr

/-- A memory as data: (address, cell) pairs, addresses strictly rising (log 3). -/
abbrev Memory (α : Type) := List (Nat × α)

/-- The frame buffer as a list of the host's cells (R27). -/
abbrev FrameBuffer := List Host.Cell

/-- The register buffer: a word is a number, with no byte order (R28, R54). -/
abbrev RegBuffer := Memory Word

/-- The complete architectural state (R20) and, after it, the model's own three fields. -/
@[ext]
structure State where
  /-- `SID`, operand register (R21). -/
  sid : Byte
  /-- `ADDR`, operand register (R21). -/
  addr : Word
  /-- `QTY`, operand register (R21). -/
  qty : Word
  /-- `LEN`, operand register (R21). -/
  len : Word
  /-- `OCAP`, operand register (R21). -/
  ocap : Word
  /-- `BC`, operand register (R21). -/
  bc : Byte
  /-- `STATUS.ERR` (R24). -/
  status : Err
  /-- `RESULT` (R22). -/
  result : Word
  /-- `O_SID` (R22). -/
  oSid : Byte
  /-- `O_ADDR` (R22). -/
  oAddr : Word
  /-- `O_QTY` (R22). -/
  oQty : Word
  /-- `DEVID`, the Device Identity (R25). -/
  devid : Byte
  /-- `LASTREQ`, the Last-Request Memory (R26). -/
  lastreq : Byte
  /-- `FB` (R27). -/
  fb : FrameBuffer
  /-- `RB` (R28). -/
  rb : RegBuffer
  /-- The model's own: what the outside world will still do, first first (R7, R10; log 1). -/
  inputs : List Input
  /-- The model's own: the replies the host has got, oldest first (R10, R51; log 4). -/
  replies : List Reply
  /-- The model's own: how many resets have been taken, to draw fresh buffer contents at each (R33; log 2). -/
  epoch : Nat
  deriving DecidableEq, Repr

/-- The frame buffer right after the reset of epoch `e`: all 256 cells, each free (R33, U7; log 2, 3). -/
def freshFb (e : Nat) : FrameBuffer :=
  (List.range Config.fbufSize).map fun a => (a, Config.freeFbByte e a)

/-- The register buffer right after the reset of epoch `e`: all 125 words, each free (R33, U7; log 2, 3). -/
def freshRb (e : Nat) : RegBuffer :=
  (List.range Config.rbufSize).map fun i => (i, Config.freeRbWord e i)

/-- The state a reset of epoch `e` leaves (R33), with no input to come and no reply given. -/
def State.afterReset (e : Nat) : State where
  sid := 0
  addr := 0
  qty := 0
  len := 0
  ocap := 0
  bc := 0
  status := .ok
  result := 0
  oSid := 0
  oAddr := 0
  oQty := 0
  devid := Config.devidReset
  lastreq := Config.lastreqReset
  fb := freshFb e
  rb := freshRb e
  inputs := []
  replies := []
  epoch := e

/-- The machine right after its first reset (R33, R190). -/
def State.reset : State := State.afterReset 0

end Sys2Proof.Machine
end

