-- ==== Sys2Proof/Machine/Ops.lean ====
section
/-! DEFINITION. The named operations over the buffers and the registers, the field assembly of 30_encoding.md R76, the end of a command (00_scope.md R6 `finish`), the error outcome (60_exceptions.md R170, R174) and reset (70_reset_and_hazards.md R190). -/

namespace Sys2Proof.Machine

/-! ### Cells of a memory -/

/-- The cell listed at address `a`, if one is. -/
def Memory.lookup {α : Type} (m : Memory α) (a : Nat) : Option α :=
  match m with
  | [] => none
  | (k, v) :: t => if k = a then some v else Memory.lookup t a

/-- Store `v` at address `a`, keeping the addresses rising (R51, R56). -/
def Memory.write {α : Type} (m : Memory α) (a : Nat) (v : α) : Memory α :=
  match m with
  | [] => [(a, v)]
  | (k, w) :: t => if a < k then (a, v) :: (k, w) :: t else if a = k then (a, v) :: t else (k, w) :: Memory.write t a v

/-- The canonical form of a memory of `size` cells: exactly the addresses 0 to `size - 1`, rising. Every cell of the space holds a value (U7), so every cell is listed (log 3). -/
abbrev Memory.wf {α : Type} (size : Nat) (m : Memory α) : Prop := m.map Prod.fst = List.range size

/-! ### The frame buffer and the register buffer -/

/-- `FB[a]` (R6). -/
def State.fbRead (s : State) (a : Nat) : Byte := (Memory.lookup s.fb a).getD (Config.unlistedFbByte a)

/-- `FB[a] <- v` (R6). -/
def State.fbWrite (s : State) (a : Nat) (v : Byte) : State := { s with fb := Memory.write s.fb a v }

/-- `RB[i]` (R6). -/
def State.rbRead (s : State) (i : Nat) : Word := (Memory.lookup s.rb i).getD (Config.unlistedRbWord i)

/-- `RB[i] <- v` (R6). -/
def State.rbWrite (s : State) (i : Nat) (v : Word) : State := { s with rb := Memory.write s.rb i v }

/-- `FB[0..n-1]`, empty for `n = 0`: a frame always starts at address 0 (R6, R27). -/
def State.fbBytes (s : State) (n : Nat) : List Byte := (List.range n).map s.fbRead

/-- `RB[0..n-1]`. -/
def State.rbWords (s : State) (n : Nat) : List Word := (List.range n).map s.rbRead

/-! ### Multi-byte fields (R76) -/

/-- `v[15:8]`. -/
def hiByte (v : Word) : Byte := v.extractLsb' 8 8

/-- `v[7:0]`. -/
def loByte (v : Word) : Byte := v.extractLsb' 0 8

/-- `{hi, lo} = hi * 256 + lo` (R5). -/
def joinBytes (hi lo : Byte) : Word := hi ++ lo

/-- `be16(a)`: the lower address is the more significant byte (R52, R76). -/
def State.be16 (s : State) (a : Nat) : Word := joinBytes (s.fbRead a) (s.fbRead (a + 1))

/-- `le16(a)`: the lower address is the less significant byte; a received CRC (R53, R76). -/
def State.le16 (s : State) (a : Nat) : Word := joinBytes (s.fbRead (a + 1)) (s.fbRead a)

/-- `put_be16(a, v)` (R76). -/
def State.putBe16 (s : State) (a : Nat) (v : Word) : State := (s.fbWrite a (hiByte v)).fbWrite (a + 1) (loByte v)

/-- `put_le16(a, v)`; appends a computed CRC (R53, R76). -/
def State.putLe16 (s : State) (a : Nat) (v : Word) : State := (s.fbWrite a (loByte v)).fbWrite (a + 1) (hiByte v)

/-- `for i in 0..n-1: put_be16(3 + 2*i, RB[i])` (R155). -/
def State.putRegs (s : State) (n : Nat) : State :=
  match n with
  | 0 => s
  | k + 1 => let t := s.putRegs k; t.putBe16 (Config.rspHdrLen + 2 * k) (t.rbRead k)

/-- `for i in 0..n-1: RB[i] <- be16(3 + 2*i)` (R125). -/
def State.takeRegs (s : State) (n : Nat) : State :=
  match n with
  | 0 => s
  | k + 1 => let t := s.takeRegs k; t.rbWrite k (t.be16 (Config.rspHdrLen + 2 * k))

/-! ### The hidden bytes and the decoded triple -/

/-- `DEVID <- v` (R25, R140). -/
def State.setDevid (s : State) (v : Byte) : State := { s with devid := v }

/-- `LASTREQ <- v` (R26, R120). -/
def State.setLastreq (s : State) (v : Byte) : State := { s with lastreq := v }

/-- `REG.O_SID <- v; REG.O_ADDR <- a; REG.O_QTY <- q` (R22, R145). -/
def State.setTriple (s : State) (v : Byte) (a q : Word) : State := { s with oSid := v, oAddr := a, oQty := q }

/-! ### The end of a command -/

/-- `finish(err, res)` (R6): the one way a command writes `STATUS` and `RESULT`. -/
def State.finish (s : State) (e : Err) (res : Word) : State := { s with status := e, result := res }

/-- Error entry: the code in `STATUS`, 0 in `RESULT`, nothing else (R170, R174). There is nothing to save and nowhere to return to (R175). -/
def State.fail (s : State) (e : Err) : State := s.finish e 0

/-- A command that has made its checks in order: `e` is the first failing one and ends it, or `Ok`, and then its effect `eff` happens (R56, R173, R174). -/
def State.conclude (s : State) (e : Err) (eff : State → State) : State := if e = .ok then eff s else s.fail e

/-! ### The outside world -/

/-- The host gets a reply (R51). -/
def State.reply (s : State) (r : Reply) : State := { s with replies := s.replies ++ [r] }

/-- Reset: every register and both hidden bytes at their reset values, the buffers at fresh free contents (R33, R190). What the host has still to do and what it has been told is the host's, not the core's (log 5). -/
def State.takeReset (s : State) : State :=
  { State.afterReset (s.epoch + 1) with inputs := s.inputs, replies := s.replies }

end Sys2Proof.Machine
end

