-- ==== Sys2Proof/Machine/Crc.lean ====
section
/-! DEFINITION. The CRC Engine: the pure functions of 40_crc_engine.md R100 to R102 and the command `CRC16` (R103). -/

namespace Sys2Proof.Machine

/-- The bit step (R100). -/
def crcBit (c : Word) : Word :=
  if c.getLsbD 0 then (c >>> 1) ^^^ Config.crcPoly else c >>> 1

/-- `n` bit steps. -/
def crcBits (n : Nat) (c : Word) : Word :=
  match n with
  | 0 => c
  | k + 1 => crcBits k (crcBit c)

/-- The byte step: the byte into the low byte of the running CRC, then all eight bit steps (R101). -/
def crcByte (c : Word) (b : Byte) : Word := crcBits 8 (c ^^^ b.zeroExtend 16)

/-- `crc16` (R102). -/
def crc16 (bs : List Byte) : Word := bs.foldl crcByte Config.crcInit

/-- The checks of `CRC16` in order (R103): the null or empty buffer before the length. -/
def crc16Check (fbv : Bool) (s : State) : Err :=
  if fbv = false ∨ s.len = 0 then .ok
  else if s.len.toNat > Config.fbufSize then .illegalCommand
  else .ok

/-- The result of `CRC16` (R103): of a null or empty buffer the initial value, FB not read. -/
def crc16Result (fbv : Bool) (s : State) : Word :=
  if fbv = false ∨ s.len = 0 then Config.crcInit else crc16 (s.fbBytes s.len.toNat)

/-- `CRC16` (R103). -/
def execCrc16 (fbv : Bool) (s : State) : Host.Outcome State Fault Refusal :=
  .next (s.conclude (crc16Check fbv s) fun t => t.finish .ok (crc16Result fbv s))

end Sys2Proof.Machine
end

