-- ==== Sys2Proof/Machine/Flags.lean ====
section
/-! DEFINITION. How outcomes are encoded. The core has no flags or condition codes (10_state.md R30): a command's outcome is the code in `STATUS` (60_exceptions.md R171) and a predicate's boolean is the value of `RESULT` (R30, R114). -/

namespace Sys2Proof.Machine

/-- The 4-bit code of an outcome (R171). -/
def Err.code (e : Err) : BitVec 4 :=
  match e with
  | .ok => 0
  | .invalidArgument => 1
  | .invalidRange => 2
  | .bufferTooSmall => 3
  | .outputTooSmall => 4
  | .identityMismatch => 5
  | .slaveMismatch => 6
  | .functionMismatch => 7
  | .integrityError => 8
  | .invalidByteCount => 9
  | .encodeFail => 10
  | .illegalCommand => 15

/-- `STATUS` as the host reads it: `ERR` in bits [3:0], bits [15:4] read as 0 (R24). -/
def Err.statusWord (e : Err) : Word := e.code.zeroExtend 16

/-- A boolean as the core delivers it in `RESULT`: 1 or 0 (R30). -/
def boolWord (b : Bool) : Word := if b then 1 else 0

end Sys2Proof.Machine
end

