-- ==== Sys2Proof/Machine/Validator.lean ====
section
/-! DEFINITION. The Field Validator: the four predicates (41_field_validator.md R110 to R113, R118) and the four commands (R114 to R117). -/

namespace Sys2Proof.Machine

/-- `valid_quantity` (R110). -/
def validQuantity (q : Word) : Bool := decide (1 ≤ q.toNat ∧ q.toNat ≤ Config.maxQty)

/-- `valid_byte_count`; evenness is not tested (R111). -/
def validByteCount (b : Byte) : Bool := decide (Config.minBc ≤ b.toNat ∧ b.toNat ≤ Config.maxBc)

/-- `valid_slave_id`; 0 included (R112). -/
def validSlaveId (v : Byte) : Bool := decide (v.toNat ≤ Config.maxSid)

/-- `valid_address_range`, over the unbounded integers (R113). -/
def validAddressRange (a q : Word) : Bool := decide ((a.toNat : Int) + (q.toNat : Int) - 1 ≤ 0xFFFF)

/-- A predicate command delivers its boolean with `Ok` (R114 to R117; D33). -/
def State.deliver (s : State) (b : Bool) : State := s.finish .ok (boolWord b)

/-- `VALID_QTY` (R114). -/
def execValidQty (s : State) : Host.Outcome State Fault Refusal := .next (s.deliver (validQuantity s.qty))

/-- `VALID_BC` (R115). -/
def execValidBc (s : State) : Host.Outcome State Fault Refusal := .next (s.deliver (validByteCount s.bc))

/-- `VALID_SID` (R116). -/
def execValidSid (s : State) : Host.Outcome State Fault Refusal := .next (s.deliver (validSlaveId s.sid))

/-- `VALID_ADDR` (R117). -/
def execValidAddr (s : State) : Host.Outcome State Fault Refusal := .next (s.deliver (validAddressRange s.addr s.qty))

end Sys2Proof.Machine
end

