-- ==== Sys2Proof/Machine/DeviceIdentity.lean ====
section
/-! DEFINITION. The Device Identity: `SET_ID` (43_device_identity.md R140). -/

namespace Sys2Proof.Machine

/-- The check of `SET_ID`: a valid slave id other than the broadcast id (R140). -/
def setIdCheck (s : State) : Err :=
  if validSlaveId s.sid = false ∨ s.sid = Config.broadcastId then .invalidArgument else .ok

/-- `SET_ID` (R140). -/
def execSetId (s : State) : Host.Outcome State Fault Refusal :=
  .next (s.conclude (setIdCheck s) fun t => (t.setDevid t.sid).finish .ok 0)

end Sys2Proof.Machine
end

