-- ==== Sys2Proof/Machine/MasterCodec.lean ====
section
/-! DEFINITION. The Master Codec: `ENC_REQ` (42_master_codec.md R120 to R124) and `DEC_RSP` (R125 to R131). -/

namespace Sys2Proof.Machine

/-- The checks of `ENC_REQ`; all of them have the one outcome `EncodeFail` (R120, R124). The capacity asked for is 6 though 8 bytes are written (R122). -/
def encReqCheck (fbv : Bool) (s : State) : Err :=
  if fbv = false then .encodeFail
  else if s.len.toNat < Config.reqCapMin then .encodeFail
  else if validQuantity s.qty = false then .encodeFail
  else if validSlaveId s.sid = false then .encodeFail
  else if validAddressRange s.addr s.qty = false then .encodeFail
  else .ok

/-- `FB[0..5]` of a request: id, function code, start address and quantity big-endian (R74, R120). -/
def putReqHeader (s : State) : State :=
  (((s.fbWrite 0 s.sid).fbWrite 1 Config.fcReadHolding).putBe16 2 s.addr).putBe16 4 s.qty

/-- Append the CRC of `FB[0..n-1]` at `n`, low byte first (R53, R120, R155). -/
def State.appendCrc (s : State) (n : Nat) : State := s.putLe16 n (crc16 (s.fbBytes n))

/-- The effect of `ENC_REQ` once its checks pass (R120, R123). -/
def encReqEffect (s : State) : State :=
  (((putReqHeader s).appendCrc Config.reqHdrLen).setLastreq s.sid).finish .ok 8

/-- `ENC_REQ` (R120). -/
def execEncReq (fbv : Bool) (s : State) : Host.Outcome State Fault Refusal :=
  .next (s.conclude (encReqCheck fbv s) encReqEffect)

/-- `byte_count` of the response in FB (R75). -/
def rspByteCount (s : State) : Nat := (s.fbRead 2).toNat

/-- The register count of the response in FB: half the byte count, rounded down (R125, R126). -/
def rspRegCount (s : State) : Nat := rspByteCount s / 2

/-- The received CRC at `n` is that of `FB[0..n-1]` (R53, R125, R145). -/
def crcMatches (s : State) (n : Nat) : Bool := decide (crc16 (s.fbBytes n) = s.le16 n)

/-- The checks of `DEC_RSP` in the source's order; the three header bytes are read before the length is compared (R125, R127, R173). -/
def decRspCheck (fbv rbv : Bool) (s : State) : Err :=
  if fbv = false ∨ rbv = false then .invalidArgument
  else if s.fbRead 0 ≠ s.lastreq then .slaveMismatch
  else if s.fbRead 1 ≠ Config.fcReadHolding then .functionMismatch
  else if validByteCount (s.fbRead 2) = false then .invalidByteCount
  else if s.len.toNat < Config.rspHdrLen + rspByteCount s + Config.crcLen then .bufferTooSmall
  else if s.ocap.toNat < rspRegCount s then .outputTooSmall
  else if crcMatches s (Config.rspHdrLen + rspByteCount s) = false then .integrityError
  else .ok

/-- The effect of `DEC_RSP` once its checks pass: the registers into RB, their count into `RESULT` (R125). -/
def decRspEffect (s : State) : State :=
  (s.takeRegs (rspRegCount s)).finish .ok (BitVec.ofNat 16 (rspRegCount s))

/-- `DEC_RSP` (R125). -/
def execDecRsp (fbv rbv : Bool) (s : State) : Host.Outcome State Fault Refusal :=
  .next (s.conclude (decRspCheck fbv rbv s) decRspEffect)

end Sys2Proof.Machine
end

