-- ==== Sys2Proof/Machine/Reserved.lean ====
section
/-! DEFINITION. The six reserved opcodes: each runs the pseudo-command ILLEGAL (30_encoding.md R72, 60_exceptions.md R180). -/

namespace Sys2Proof.Machine

/-- ILLEGAL: `finish(IllegalCommand, 0)`, and nothing else changes (R72, R180). -/
def State.illegal (s : State) : State := s.fail .illegalCommand

/-- `OP` = 0x0 (R180). -/
def execIllegal0 (s : State) : Host.Outcome State Fault Refusal := .next s.illegal

/-- `OP` = 0xB (R180). -/
def execIllegalB (s : State) : Host.Outcome State Fault Refusal := .next s.illegal

/-- `OP` = 0xC (R180). -/
def execIllegalC (s : State) : Host.Outcome State Fault Refusal := .next s.illegal

/-- `OP` = 0xD (R180). -/
def execIllegalD (s : State) : Host.Outcome State Fault Refusal := .next s.illegal

/-- `OP` = 0xE (R180). -/
def execIllegalE (s : State) : Host.Outcome State Fault Refusal := .next s.illegal

/-- `OP` = 0xF (R180). -/
def execIllegalF (s : State) : Host.Outcome State Fault Refusal := .next s.illegal

end Sys2Proof.Machine
end

