-- ==== Sys2Proof/Machine/SlaveCodec.lean ====
section
/-! DEFINITION. The Slave Codec: `DEC_REQ` (44_slave_codec.md R145 to R150) and `ENC_RSP` (R155, R156). -/

namespace Sys2Proof.Machine

/-- The three field checks of a request, one group with one code (R145, R146). -/
def reqFieldsValid (s : State) : Bool :=
  validQuantity (s.be16 4) && validSlaveId (s.fbRead 0) && validAddressRange (s.be16 2) (s.be16 4)

/-- The checks of `DEC_REQ` in the source's order (R145, R147, R148, R173). -/
def decReqCheck (fbv : Bool) (s : State) : Err :=
  if fbv = false then .invalidArgument
  else if s.len.toNat < Config.reqHdrLen + Config.crcLen then .bufferTooSmall
  else if reqFieldsValid s = false then .invalidRange
  else if s.fbRead 0 ≠ s.devid ∧ s.fbRead 0 ≠ Config.broadcastId then .identityMismatch
  else if s.fbRead 1 ≠ Config.fcReadHolding then .functionMismatch
  else if crcMatches s Config.reqHdrLen = false then .integrityError
  else .ok

/-- The effect of `DEC_REQ` once its checks pass: the decoded triple (R145). -/
def decReqEffect (s : State) : State :=
  (s.setTriple (s.fbRead 0) (s.be16 2) (s.be16 4)).finish .ok 0

/-- `DEC_REQ` (R145). -/
def execDecReq (fbv : Bool) (s : State) : Host.Outcome State Fault Refusal :=
  .next (s.conclude (decReqCheck fbv s) decReqEffect)

/-- The checks of `ENC_RSP`; all of them have the one outcome `EncodeFail` (R155). -/
def encRspCheck (fbv rbv : Bool) (s : State) : Err :=
  if fbv = false ∨ rbv = false then .encodeFail
  else if validQuantity s.qty = false then .encodeFail
  else if validSlaveId s.sid = false then .encodeFail
  else if s.len.toNat < Config.rspHdrLen + 2 * s.qty.toNat + Config.crcLen then .encodeFail
  else .ok

/-- `FB[0..2]` of a response: id, function code, byte count (R75, R155). -/
def putRspHeader (s : State) : State :=
  ((s.fbWrite 0 s.sid).fbWrite 1 Config.fcReadHolding).fbWrite 2 (BitVec.ofNat 8 (2 * s.qty.toNat))

/-- The effect of `ENC_RSP` once its checks pass (R155). -/
def encRspEffect (s : State) : State :=
  (((putRspHeader s).putRegs s.qty.toNat).appendCrc (Config.rspHdrLen + 2 * s.qty.toNat)).finish .ok
    (BitVec.ofNat 16 (5 + 2 * s.qty.toNat))

/-- `ENC_RSP` (R155, R156). -/
def execEncRsp (fbv rbv : Bool) (s : State) : Host.Outcome State Fault Refusal :=
  .next (s.conclude (encRspCheck fbv rbv s) encRspEffect)

end Sys2Proof.Machine
end

