-- ==== Sys2Proof/Machine/Dispatch.lean ====
section
/-! DEFINITION. One arm per command (the opcode map, 30_encoding.md R71, R72): each calls its meaning. -/

namespace Sys2Proof.Machine

def exec (i : Instr) (s : State) : Host.Outcome State Fault Refusal :=
  match i with
  | .illegal0 => Sys2Proof.Machine.execIllegal0 s
  | .crc16 fbv => Sys2Proof.Machine.execCrc16 fbv s
  | .validQty => Sys2Proof.Machine.execValidQty s
  | .validBc => Sys2Proof.Machine.execValidBc s
  | .validSid => Sys2Proof.Machine.execValidSid s
  | .validAddr => Sys2Proof.Machine.execValidAddr s
  | .encReq fbv => Sys2Proof.Machine.execEncReq fbv s
  | .decRsp fbv rbv => Sys2Proof.Machine.execDecRsp fbv rbv s
  | .setId => Sys2Proof.Machine.execSetId s
  | .decReq fbv => Sys2Proof.Machine.execDecReq fbv s
  | .encRsp fbv rbv => Sys2Proof.Machine.execEncRsp fbv rbv s
  | .illegalB => Sys2Proof.Machine.execIllegalB s
  | .illegalC => Sys2Proof.Machine.execIllegalC s
  | .illegalD => Sys2Proof.Machine.execIllegalD s
  | .illegalE => Sys2Proof.Machine.execIllegalE s
  | .illegalF => Sys2Proof.Machine.execIllegalF s

end Sys2Proof.Machine
end

