-- ==== Sys2Proof/Machine/Operands.lean ====
section
/-! DEFINITION. The REG space: the index map (10_state.md R32), and the host's read and write of each register (20_memory.md R51, 10_state.md R21 to R24). A command's own operands are the fields of State at their stored width (30_encoding.md R79). -/

namespace Sys2Proof.Machine

/-- The register at a REG index; none where the index is reserved (R32). -/
def regAt (i : Nat) : Option RegName :=
  match i with
  | 0 => some .cmd
  | 1 => some .status
  | 2 => some .result
  | 3 => some .sid
  | 4 => some .addr
  | 5 => some .qty
  | 6 => some .len
  | 7 => some .ocap
  | 8 => some .oSid
  | 9 => some .oAddr
  | 10 => some .oQty
  | 11 => some .bc
  | _ => none

/-- The REG index of a register (R32). -/
def RegName.index (r : RegName) : Nat :=
  match r with
  | .cmd => 0
  | .status => 1
  | .result => 2
  | .sid => 3
  | .addr => 4
  | .qty => 5
  | .len => 6
  | .ocap => 7
  | .oSid => 8
  | .oAddr => 9
  | .oQty => 10
  | .bc => 11

/-- What the host reads from a register: zero-extended to 16 bits; `CMD` stores nothing and reads as 0 (R21, R23, R24, R51). -/
def State.readReg (s : State) (r : RegName) : Word :=
  match r with
  | .cmd => 0
  | .status => s.status.statusWord
  | .result => s.result
  | .sid => s.sid.zeroExtend 16
  | .addr => s.addr
  | .qty => s.qty
  | .len => s.len
  | .ocap => s.ocap
  | .oSid => s.oSid.zeroExtend 16
  | .oAddr => s.oAddr
  | .oQty => s.oQty
  | .bc => s.bc.zeroExtend 16

/-- What the host's write of `v` stores in a register: bits [7:0] in an 8-bit register, all of it in a 16-bit operand register, nothing in a read-only one (R21, R22, R24, R51). `CMD` stores nothing (R23); the command a `CMD` write starts is the step's. -/
def State.writeReg (s : State) (r : RegName) (v : Word) : State :=
  match r with
  | .cmd => s
  | .status => s
  | .result => s
  | .sid => { s with sid := loByte v }
  | .addr => { s with addr := v }
  | .qty => { s with qty := v }
  | .len => { s with len := v }
  | .ocap => { s with ocap := v }
  | .oSid => s
  | .oAddr => s
  | .oQty => s
  | .bc => { s with bc := loByte v }

/-- `RegRead(i)` for an index of the space: a reserved index reads as 0 (R32, R51). -/
def State.readIndex (s : State) (i : Nat) : Word :=
  match regAt i with
  | some r => s.readReg r
  | none => 0

/-- `RegWrite(i, v)` for an index of the space other than 0: a write to a reserved index is ignored (R32, R51). -/
def State.writeIndex (s : State) (i : Nat) (v : Word) : State :=
  match regAt i with
  | some r => s.writeReg r v
  | none => s

end Sys2Proof.Machine
end

