-- ==== Sys2Proof/Machine/HostMoves.lean ====
section
/-! DEFINITION. The six moves of the host (20_memory.md R51) and what the next input is (00_scope.md R7, R8, R10; 70_reset_and_hazards.md R190). -/

namespace Sys2Proof.Machine

/-- What taking the next input comes to: a command word written to `CMD`, to be run in the state given, or an input that is settled at once. -/
inductive Fetched where
  /-- A `RegWrite` to index 0: run the command `w` selects (R23, R51). -/
  | command (w : Word) (s : State)
  /-- Anything else. -/
  | settled (o : Host.Outcome State Fault Refusal)

/-- A host move on the state from which it has been taken (R51). A move whose precondition fails has no meaning and is refused (U9; log 6). -/
def hostMove (m : HostMove) (s : State) : Fetched :=
  match m with
  | .regWrite i v =>
    if i < regCount then (if i = 0 then .command v s else .settled (.next (s.writeIndex i v)))
    else .settled (.refused (.regIndexOutOfRange i))
  | .regRead i =>
    if i < regCount then .settled (.next (s.reply (.word (s.readIndex i))))
    else .settled (.refused (.regIndexOutOfRange i))
  | .fbWrite a v =>
    if a < Config.fbufSize then .settled (.next (s.fbWrite a v))
    else .settled (.refused (.fbAddressOutOfRange a))
  | .fbRead a =>
    if a < Config.fbufSize then .settled (.next (s.reply (.byte (s.fbRead a))))
    else .settled (.refused (.fbAddressOutOfRange a))
  | .rbWrite i v =>
    if i < Config.rbufSize then .settled (.next (s.rbWrite i v))
    else .settled (.refused (.rbIndexOutOfRange i))
  | .rbRead i =>
    if i < Config.rbufSize then .settled (.next (s.reply (.word (s.rbRead i))))
    else .settled (.refused (.rbIndexOutOfRange i))

/-- Take the next input. With none left the core is idle and nothing changes (R10, R181; log 1). -/
def fetch (s : State) : Fetched :=
  match s.inputs with
  | [] => .settled (.next s)
  | .reset :: rest => .settled (.next ({ s with inputs := rest }).takeReset)
  | .host m :: rest => hostMove m { s with inputs := rest }

end Sys2Proof.Machine
end

