-- ==== Sys2Proof/Machine/Step.lean ====
section
/-! DEFINITION. One step: the next input, whole (00_scope.md R8, R10). A `CMD` write runs the command its word selects, to its end (R8, R23). -/

namespace Sys2Proof.Machine

/-- One step of the machine (R8). -/
def step (s : State) : Host.Outcome State Fault Refusal :=
  match fetch s with
  | .command w t => exec (decode w) t
  | .settled o => o

/-- The host's next move is the `CMD` write of the word `w` (R7, R23; log 1). The core fetches nothing (R29): this is where a command comes from. -/
def State.withFetchWord (s : State) (nbits w : Nat) : State :=
  { s with inputs := .host (.regWrite 0 (BitVec.ofNat 16 (w % 2 ^ nbits))) :: s.inputs }

end Sys2Proof.Machine
end

