-- ==== Sys2Proof/Machine/Frames.lean ====
section
/-! DEFINITION. The two frame formats as pure functions (30_encoding.md R74, R75). The codec commands write frames by their own pseudocode; these functions say what the result is. -/

namespace Sys2Proof.Machine

/-- A byte sequence with its CRC appended low byte first (R53, R74, R75). -/
def withCrc (bs : List Byte) : List Byte := bs ++ [loByte (crc16 bs), hiByte (crc16 bs)]

/-- The 6 header bytes of a request (R74). -/
def reqHeader (v : Byte) (a q : Word) : List Byte :=
  [v, Config.fcReadHolding, hiByte a, loByte a, hiByte q, loByte q]

/-- `req_frame(sid, addr, qty)` (R74). -/
def reqFrame (v : Byte) (a q : Word) : List Byte := withCrc (reqHeader v a q)

/-- The payload of a response: each register's high byte, then its low byte (R52, R75). -/
def regBytes (regs : List Word) : List Byte := regs.flatMap fun w => [hiByte w, loByte w]

/-- The header and payload of a response (R75). -/
def rspBody (v : Byte) (regs : List Word) : List Byte :=
  [v, Config.fcReadHolding, BitVec.ofNat 8 (2 * regs.length)] ++ regBytes regs

/-- `rsp_frame(sid, regs)` (R75). -/
def rspFrame (v : Byte) (regs : List Word) : List Byte := withCrc (rspBody v regs)

end Sys2Proof.Machine
end

