-- ==== Sys2Proof/Safety.lean ====
section
/-! DEFINITION. What claims are stated in: the invariant of the state (10_state.md R25, R26, R27, R28), admitted inputs and safe runs (00_scope.md R10), and the parts of the state that a frame names. -/

namespace Sys2Proof.Machine

/-- The invariant of the state: both buffers in canonical form with every cell of their space (R27, R28), the two hidden bytes in their ranges (R25, R26). -/
structure State.Inv (s : State) : Prop where
  /-- FB holds exactly the addresses 0 to 255, rising. -/
  fbWf : Memory.wf Config.fbufSize s.fb
  /-- RB holds exactly the indices 0 to 124, rising. -/
  rbWf : Memory.wf Config.rbufSize s.rb
  /-- `DEVID` is 0 or in 1..247 (R25). -/
  devidRange : s.devid.toNat ≤ 247
  /-- `LASTREQ` is in 0..247 (R26). -/
  lastreqRange : s.lastreq.toNat ≤ 247

/-- Every input still to come is admitted by its precondition (R10, R51). -/
def State.Admitted (s : State) : Prop := ∀ x ∈ s.inputs, x.wf = true

/-- A safe run: `n` steps from `s` end in a next state, with no fault and no refusal on the way. -/
def SafeFor (n : Nat) (s : State) : Prop := ∃ t, core.run n s = .next t

/-- The six operand registers are the same in both states (R21). -/
def SameOperands (s t : State) : Prop :=
  t.sid = s.sid ∧ t.addr = s.addr ∧ t.qty = s.qty ∧ t.len = s.len ∧ t.ocap = s.ocap ∧ t.bc = s.bc

/-- The decoded triple is the same in both states (R22). -/
def SameTriple (s t : State) : Prop := t.oSid = s.oSid ∧ t.oAddr = s.oAddr ∧ t.oQty = s.oQty

/-- Every byte of FB outside the addresses `P` reads the same in both states (R57, R58). -/
def SameFbOutside (P : Nat → Prop) (s t : State) : Prop := ∀ a, ¬ P a → t.fbRead a = s.fbRead a

/-- Every word of RB outside the indices `P` reads the same in both states (R57, R58). -/
def SameRbOutside (P : Nat → Prop) (s t : State) : Prop := ∀ i, ¬ P i → t.rbRead i = s.rbRead i

/-- The model's own fields are the same in both states: a command does nothing to the outside world (R7, R8). -/
def SameOutside (s t : State) : Prop := t.inputs = s.inputs ∧ t.replies = s.replies ∧ t.epoch = s.epoch

/-- Every command word with `match` value `op` under the mask 0x000F is the command `f FBV RBV` (R71; the rows of opcode_table.json). -/
def Selects (op : Word) (f : Bool → Bool → Instr) : Prop :=
  ∀ w : Word, w &&& 0x000F = op → decode w = f (w.getLsbD 8) (w.getLsbD 9)

/-- The outcomes a command can have, complete (R172). -/
def outcomesOf (i : Instr) : List Err :=
  match i with
  | .crc16 _ => [.ok, .illegalCommand]
  | .validQty => [.ok]
  | .validBc => [.ok]
  | .validSid => [.ok]
  | .validAddr => [.ok]
  | .encReq _ => [.ok, .encodeFail]
  | .decRsp _ _ => [.ok, .invalidArgument, .slaveMismatch, .functionMismatch, .invalidByteCount, .bufferTooSmall, .outputTooSmall, .integrityError]
  | .setId => [.ok, .invalidArgument]
  | .decReq _ => [.ok, .invalidArgument, .bufferTooSmall, .invalidRange, .identityMismatch, .functionMismatch, .integrityError]
  | .encRsp _ _ => [.ok, .encodeFail]
  | .illegal0 => [.illegalCommand]
  | .illegalB => [.illegalCommand]
  | .illegalC => [.illegalCommand]
  | .illegalD => [.illegalCommand]
  | .illegalE => [.illegalCommand]
  | .illegalF => [.illegalCommand]

end Sys2Proof.Machine
end

