-- ==== Sys2Proof/Certificates/Slice0/Obligations.lean ====
section
/-! DEFINITION. The statements for the provers. Numbers in them are the spec's own, so that a statement can be held against its rule without reading the parameters of Config. -/

open Sys2Proof Sys2Proof.Machine

/-! ### Encoding -/

/-- The command words of 30_encoding.md R81 and the six reserved opcodes, each the command it is written for (R71). -/
def Obligations.DecodeReadsTheSpecsCommandWords : Prop :=
  decode 0x0101 = .crc16 true ∧ decode 0x0001 = .crc16 false ∧ decode 0x0002 = .validQty ∧ decode 0x0003 = .validBc ∧
    decode 0x0004 = .validSid ∧ decode 0x0005 = .validAddr ∧ decode 0x0106 = .encReq true ∧
    decode 0x0307 = .decRsp true true ∧ decode 0x0008 = .setId ∧ decode 0x0109 = .decReq true ∧
    decode 0x030A = .encRsp true true ∧ decode 0x0000 = .illegal0 ∧ decode 0x000B = .illegalB ∧
    decode 0x000C = .illegalC ∧ decode 0x000D = .illegalD ∧ decode 0x000E = .illegalE ∧ decode 0x000F = .illegalF

/-- Every command's word decodes to it, and every one of the 65536 words encodes back to itself less the bits its command ignores (R70, R71, R73). -/
def Obligations.DecodeAndEncodeAgree : Prop :=
  (∀ i : Instr, i.wf = true → decode (encode i) = i) ∧
    ∀ w : Word, (decode w).wf = true ∧ encode (decode w) = w &&& (decode w).usedMask

/-- R73: two words that agree on `OP` and on the flags the command uses run the same transition. -/
def Obligations.IgnoredBitsNeverMatter : Prop :=
  ∀ w w' : Word, w &&& (decode w).usedMask = w' &&& (decode w).usedMask →
    ∀ s : State, exec (decode w') s = exec (decode w) s

/-- A `RegWrite` to index 0 that is the next input runs the command of its word on the state without that input (R8, R23, R51). That inputs are a list, and that `withFetchWord` places such an input before it, is the model's choice (log 1); that `decodeTableWord` reads an instruction as one 16-bit command word is the model's inference (log 11). -/
def Obligations.StepRunsTheCommandWritten : Prop :=
  (∀ (s : State) (w : Word) (rest : List Input), s.inputs = .host (.regWrite 0 w) :: rest →
    step s = exec (decode w) { s with inputs := rest }) ∧
  ∀ (s : State) (n : Nat) (i : Instr), decodeTableWord 16 n = some i → step (s.withFetchWord 16 n) = exec i s

/-! ### The CRC Engine -/

/-- R102: the CRC of the empty sequence is the initial value, one more byte is one more byte step; and the chaining of R105 (b). -/
def Obligations.CrcOfEmptyAndOfMoreBytes : Prop :=
  crc16 [] = 0xFFFF ∧ (∀ (bs : List Byte) (b : Byte), crc16 (bs ++ [b]) = crcByte (crc16 bs) b) ∧
    ∀ x y : List Byte, crc16 (x ++ y) = y.foldl crcByte (crc16 x)

/-- R104: the worked bit steps. -/
def Obligations.WorkedCrcBitSteps : Prop :=
  (0xFFFF : Word) ^^^ (0x01 : Word) = 0xFFFE ∧
    (List.range 8).map (fun k => crcBits (k + 1) 0xFFFE) =
      [0x7FFF, 0x9FFE, 0x4FFF, 0x87FE, 0x43FF, 0x81FE, 0x40FF, 0x807E] ∧
    crc16 [0x01] = 0x807E ∧ (0x807E : Word) ^^^ (0x03 : Word) = 0x807D ∧
    (List.range 8).map (fun k => crcBits (k + 1) 0x807D) =
      [0xE03F, 0xD01E, 0x680F, 0x9406, 0x4A03, 0x8500, 0x4280, 0x2140] ∧
    crc16 [0x01, 0x03] = 0x2140

/-- R105 (c): the byte step depends on `c[7:0] ^ b` and `c[15:8]` only; the table form and its printed entries. -/
def Obligations.CrcByteStepInTableForm : Prop :=
  (∀ (c : Word) (b : Byte), crcByte c b = crcByte (c ^^^ b.zeroExtend 16) 0 ∧
    crcByte c b = (c >>> 8) ^^^ crcByte 0 (c.setWidth 8 ^^^ b)) ∧
  crcByte 0 0x00 = 0x0000 ∧ crcByte 0 0x01 = 0xC0C1 ∧ crcByte 0 0x02 = 0xC181 ∧ crcByte 0 0x80 = 0xA001 ∧
    crcByte 0 0xFF = 0x4040

/-- R105 (d): a byte sequence with its CRC appended low byte first has CRC 0. -/
def Obligations.CrcResidueIsZero : Prop :=
  ∀ x : List Byte, crc16 (x ++ [loByte (crc16 x), hiByte (crc16 x)]) = 0x0000

/-- R105 (e), first part: the bit step is a bijection, so is the byte step for a fixed byte, and for a fixed CRC two different bytes give different CRCs. -/
def Obligations.CrcStepsAreBijective : Prop :=
  Function.Bijective crcBit ∧ (∀ b : Byte, Function.Bijective fun c => crcByte c b) ∧
    ∀ (c : Word) (b b' : Byte), b ≠ b' → crcByte c b ≠ crcByte c b'

/-- R105 (e), last part: two inputs of the same length that differ in exactly one byte have different CRCs. -/
def Obligations.OneChangedByteChangesTheCrc : Prop :=
  ∀ (x y : List Byte) (b b' : Byte), b ≠ b' → crc16 (x ++ b :: y) ≠ crc16 (x ++ b' :: y)

/-- R103: the outcome of `CRC16`, every other part of the state unchanged. -/
def Obligations.Crc16CommandResult : Prop :=
  Selects 0x1 (fun fbv _ => .crc16 fbv) ∧
  ∀ (fbv : Bool) (s : State),
    ((fbv = false ∨ s.len.toNat = 0) → exec (.crc16 fbv) s = .next { s with status := .ok, result := 0xFFFF }) ∧
    (fbv = true → 256 < s.len.toNat → exec (.crc16 fbv) s = .next { s with status := .illegalCommand, result := 0 }) ∧
    (fbv = true → 1 ≤ s.len.toNat → s.len.toNat ≤ 256 →
      exec (.crc16 fbv) s =
        .next { s with status := .ok, result := crc16 ((List.range s.len.toNat).map s.fbRead) })

/-- R57, the row of `CRC16`: of FB it reads `FB[0..L-1]` when `FBV` = 1 and `L` is in 1..256, and nothing otherwise. -/
def Obligations.Crc16CommandReadsOnlyTheDeclaredBytes : Prop :=
  ∀ (fbv : Bool) (s : State) (m : FrameBuffer),
    (fbv = true → s.len.toNat ≤ 256 → ∀ a, a < s.len.toNat → ({ s with fb := m } : State).fbRead a = s.fbRead a) →
    ∃ t, exec (.crc16 fbv) s = .next t ∧ exec (.crc16 fbv) { s with fb := m } = .next { t with fb := m }

/-! ### The Field Validator -/

/-- R110, R114: `VALID_QTY`. -/
def Obligations.ValidQtyCommandResult : Prop :=
  Selects 0x2 (fun _ _ => .validQty) ∧
  ∀ s : State, exec .validQty s =
    .next { s with status := .ok, result := if 1 ≤ s.qty.toNat ∧ s.qty.toNat ≤ 125 then 1 else 0 }

/-- R111, R115: `VALID_BC`. -/
def Obligations.ValidBcCommandResult : Prop :=
  Selects 0x3 (fun _ _ => .validBc) ∧
  ∀ s : State, exec .validBc s =
    .next { s with status := .ok, result := if 2 ≤ s.bc.toNat ∧ s.bc.toNat ≤ 250 then 1 else 0 }

/-- R112, R116: `VALID_SID`. -/
def Obligations.ValidSidCommandResult : Prop :=
  Selects 0x4 (fun _ _ => .validSid) ∧
  ∀ s : State, exec .validSid s = .next { s with status := .ok, result := if s.sid.toNat ≤ 247 then 1 else 0 }

/-- R113, R117: `VALID_ADDR`, the sum over the unbounded integers, in the rule's equivalent form `addr + qty <= 0x10000`. -/
def Obligations.ValidAddrCommandResult : Prop :=
  Selects 0x5 (fun _ _ => .validAddr) ∧
  ∀ s : State, exec .validAddr s =
    .next { s with status := .ok, result := if s.addr.toNat + s.qty.toNat ≤ 0x10000 then 1 else 0 }

/-! ### The Master Codec -/

/-- R120, R121, R124: when its checks pass `ENC_REQ` writes the request frame to `FB[0..7]` and `SID` to `LASTREQ`; otherwise it writes the outcome and nothing else. -/
def Obligations.EncReqEncodesOrFails : Prop :=
  Selects 0x6 (fun fbv _ => .encReq fbv) ∧
  ∀ (fbv : Bool) (s : State),
    ((fbv = true ∧ 6 ≤ s.len.toNat ∧ 1 ≤ s.qty.toNat ∧ s.qty.toNat ≤ 125 ∧ s.sid.toNat ≤ 247 ∧
        s.addr.toNat + s.qty.toNat ≤ 0x10000) →
      ∃ t, exec (.encReq fbv) s = .next t ∧
        t = { s with fb := t.fb, lastreq := s.sid, status := .ok, result := 8 } ∧
        t.fbBytes 8 = reqFrame s.sid s.addr s.qty ∧ SameFbOutside (· < 8) s t) ∧
    (¬ (fbv = true ∧ 6 ≤ s.len.toNat ∧ 1 ≤ s.qty.toNat ∧ s.qty.toNat ≤ 125 ∧ s.sid.toNat ≤ 247 ∧
        s.addr.toNat + s.qty.toNat ≤ 0x10000) →
      exec (.encReq fbv) s = .next { s with status := .encodeFail, result := 0 })

/-- R122: the capacity asked for is 6, yet 8 bytes are written: at capacity 6 or 7 the CRC bytes land past the capacity; at 5 or less the command fails. -/
def Obligations.EncReqOverrunsASmallCapacity : Prop :=
  ∀ s : State, 1 ≤ s.qty.toNat → s.qty.toNat ≤ 125 → s.sid.toNat ≤ 247 → s.addr.toNat + s.qty.toNat ≤ 0x10000 →
    (s.len.toNat ≤ 5 → exec (.encReq true) s = .next { s with status := .encodeFail, result := 0 }) ∧
    (6 ≤ s.len.toNat → ∃ t, exec (.encReq true) s = .next t ∧ t.status = .ok ∧ t.result = 8 ∧
      t.fbRead 6 = loByte (crc16 (reqHeader s.sid s.addr s.qty)) ∧
      t.fbRead 7 = hiByte (crc16 (reqHeader s.sid s.addr s.qty)))

/-- R125, R126, R131: `DEC_RSP` makes its seven checks in order, the first that fails ends it with its code and no other effect; when all pass, registers 0 to `n - 1` are in RB and their count is the result. -/
def Obligations.DecRspFirstFailingCheckOrRegisters : Prop :=
  Selects 0x7 (fun fbv rbv => .decRsp fbv rbv) ∧
  (∀ (fbv rbv : Bool) (s : State), (fbv = false ∨ rbv = false) →
    exec (.decRsp fbv rbv) s = .next { s with status := .invalidArgument, result := 0 }) ∧
  ∀ (s : State) (bc n : Nat), bc = (s.fbRead 2).toNat → n = bc / 2 →
    (s.fbRead 0 ≠ s.lastreq → exec (.decRsp true true) s = .next { s with status := .slaveMismatch, result := 0 }) ∧
    (s.fbRead 0 = s.lastreq →
      (s.fbRead 1 ≠ 0x03 → exec (.decRsp true true) s = .next { s with status := .functionMismatch, result := 0 }) ∧
      (s.fbRead 1 = 0x03 →
        (¬ (2 ≤ bc ∧ bc ≤ 250) →
          exec (.decRsp true true) s = .next { s with status := .invalidByteCount, result := 0 }) ∧
        (2 ≤ bc → bc ≤ 250 →
          (s.len.toNat < bc + 5 → exec (.decRsp true true) s = .next { s with status := .bufferTooSmall, result := 0 }) ∧
          (bc + 5 ≤ s.len.toNat →
            (s.ocap.toNat < n → exec (.decRsp true true) s = .next { s with status := .outputTooSmall, result := 0 }) ∧
            (n ≤ s.ocap.toNat →
              (crc16 (s.fbBytes (3 + bc)) ≠ joinBytes (s.fbRead (4 + bc)) (s.fbRead (3 + bc)) →
                exec (.decRsp true true) s = .next { s with status := .integrityError, result := 0 }) ∧
              (crc16 (s.fbBytes (3 + bc)) = joinBytes (s.fbRead (4 + bc)) (s.fbRead (3 + bc)) →
                ∃ t, exec (.decRsp true true) s = .next t ∧
                  t = { s with rb := t.rb, status := .ok, result := BitVec.ofNat 16 n } ∧
                  (∀ i, i < n → t.rbRead i = joinBytes (s.fbRead (3 + 2 * i)) (s.fbRead (4 + 2 * i))) ∧
                  SameRbOutside (· < n) s t))))))

/-- R127: with `LEN` below 7 `DEC_RSP` is always an error, one of the first five codes by what FB holds; with a header that passes it is `BufferTooSmall`. -/
def Obligations.DecRspWithShortLengthIsAnError : Prop :=
  ∀ s : State, s.len.toNat < 7 → ∃ t, exec (.decRsp true true) s = .next t ∧
    (t.status = .slaveMismatch ∨ t.status = .functionMismatch ∨ t.status = .invalidByteCount ∨ t.status = .bufferTooSmall) ∧
    (s.fbRead 0 = s.lastreq → s.fbRead 1 = 0x03 → 2 ≤ (s.fbRead 2).toNat → (s.fbRead 2).toNat ≤ 250 →
      t.status = .bufferTooSmall)

/-- R129, R57: `DEC_RSP` reads no byte after the frame its byte count declares; two frame buffers that agree on the frame give the same outcome and the same registers. -/
def Obligations.DecRspReadsOnlyTheFrame : Prop :=
  ∀ (fbv rbv : Bool) (s : State) (m : FrameBuffer),
    (∀ a, a < (s.fbRead 2).toNat + 5 → ({ s with fb := m } : State).fbRead a = s.fbRead a) →
    ∃ t, exec (.decRsp fbv rbv) s = .next t ∧ exec (.decRsp fbv rbv) { s with fb := m } = .next { t with fb := m }

/-- R130, R26: a successful `DEC_RSP` can be run again on the same FB with the same result; `LASTREQ` is unchanged. -/
def Obligations.DecRspTwiceGivesTheSameResult : Prop :=
  ∀ (s t : State), exec (.decRsp true true) s = .next t → t.status = .ok →
    t.lastreq = s.lastreq ∧
    ∃ u, exec (.decRsp true true) t = .next u ∧ u.status = .ok ∧ u.result = t.result ∧ u.lastreq = s.lastreq ∧
      (∀ i, u.rbRead i = t.rbRead i) ∧ ∀ a, u.fbRead a = s.fbRead a

/-! ### The Device Identity -/

/-- R140: `SET_ID` stores an id in 1..247 and rejects every other, keeping `DEVID`; no command clears an identity back to 0. -/
def Obligations.SetIdStoresOrRejects : Prop :=
  Selects 0x8 (fun _ _ => .setId) ∧
  ∀ s : State,
    (1 ≤ s.sid.toNat → s.sid.toNat ≤ 247 → exec .setId s = .next { s with devid := s.sid, status := .ok, result := 0 }) ∧
    ((s.sid.toNat = 0 ∨ 248 ≤ s.sid.toNat) → exec .setId s = .next { s with status := .invalidArgument, result := 0 }) ∧
    ∀ (i : Instr) (t : State), exec i s = .next t → s.devid ≠ 0 → t.devid ≠ 0

/-! ### The Slave Codec -/

/-- R145, R146, R147, R149, R150: `DEC_REQ` makes its six checks in order, the first that fails ends it with its code and no other effect; when all pass, the triple is in `O_SID`, `O_ADDR`, `O_QTY`. -/
def Obligations.DecReqFirstFailingCheckOrTriple : Prop :=
  Selects 0x9 (fun fbv _ => .decReq fbv) ∧
  (∀ s : State, exec (.decReq false) s = .next { s with status := .invalidArgument, result := 0 }) ∧
  ∀ (s : State) (a q : Word), a = joinBytes (s.fbRead 2) (s.fbRead 3) → q = joinBytes (s.fbRead 4) (s.fbRead 5) →
    (s.len.toNat < 8 → exec (.decReq true) s = .next { s with status := .bufferTooSmall, result := 0 }) ∧
    (8 ≤ s.len.toNat →
      ((q.toNat = 0 ∨ 125 < q.toNat ∨ 247 < (s.fbRead 0).toNat ∨ 0x10000 < a.toNat + q.toNat) →
        exec (.decReq true) s = .next { s with status := .invalidRange, result := 0 }) ∧
      (1 ≤ q.toNat → q.toNat ≤ 125 → (s.fbRead 0).toNat ≤ 247 → a.toNat + q.toNat ≤ 0x10000 →
        (s.fbRead 0 ≠ s.devid → s.fbRead 0 ≠ 0 →
          exec (.decReq true) s = .next { s with status := .identityMismatch, result := 0 }) ∧
        ((s.fbRead 0 = s.devid ∨ s.fbRead 0 = 0) →
          (s.fbRead 1 ≠ 0x03 → exec (.decReq true) s = .next { s with status := .functionMismatch, result := 0 }) ∧
          (s.fbRead 1 = 0x03 →
            (crc16 (s.fbBytes 6) ≠ joinBytes (s.fbRead 7) (s.fbRead 6) →
              exec (.decReq true) s = .next { s with status := .integrityError, result := 0 }) ∧
            (crc16 (s.fbBytes 6) = joinBytes (s.fbRead 7) (s.fbRead 6) →
              exec (.decReq true) s =
                .next { s with oSid := s.fbRead 0, oAddr := a, oQty := q, status := .ok, result := 0 })))))

/-- R148: a request of id 0 passes the identity check whatever `DEVID` is, and when the other checks pass `O_SID` is then 0; after reset `DEVID` is 0, and a core with `DEVID` = 0 accepts such requests only and gives `IdentityMismatch` for every id in 1..247 whose fields are valid. -/
def Obligations.DecReqBroadcastAndUnconfigured : Prop :=
  State.reset.devid = 0 ∧
  (∀ s t : State, s.fbRead 0 = 0 → exec (.decReq true) s = .next t → t.status ≠ .identityMismatch) ∧
  (∀ s t : State, s.devid = 0 → exec (.decReq true) s = .next t → t.status = .ok → t.oSid = 0) ∧
  ∀ s : State, 8 ≤ s.len.toNat → 1 ≤ (s.be16 4).toNat → (s.be16 4).toNat ≤ 125 →
    (s.be16 2).toNat + (s.be16 4).toNat ≤ 0x10000 →
    (s.fbRead 0 = 0 → s.fbRead 1 = 0x03 → crc16 (s.fbBytes 6) = s.le16 6 →
      ∀ d : Byte, ∃ t, exec (.decReq true) { s with devid := d } = .next t ∧ t.status = .ok ∧ t.oSid = 0 ∧ t.devid = d) ∧
    (s.devid = 0 → 1 ≤ (s.fbRead 0).toNat → (s.fbRead 0).toNat ≤ 247 →
      exec (.decReq true) s = .next { s with status := .identityMismatch, result := 0 })

/-- R149, R57: `DEC_REQ` reads no byte of FB after the eighth, and none at all with `FBV` = 0 or `LEN` < 8. -/
def Obligations.DecReqReadsOnlyEightBytes : Prop :=
  ∀ (fbv : Bool) (s : State) (m : FrameBuffer),
    (fbv = true → 8 ≤ s.len.toNat → ∀ a, a < 8 → ({ s with fb := m } : State).fbRead a = s.fbRead a) →
    ∃ t, exec (.decReq fbv) s = .next t ∧ exec (.decReq fbv) { s with fb := m } = .next { t with fb := m }

/-- R155: when its checks pass `ENC_RSP` writes the response frame of `RB[0..q-1]` to `FB[0..4+2q]`; otherwise it writes the outcome and nothing else. -/
def Obligations.EncRspEncodesOrFails : Prop :=
  Selects 0xA (fun fbv rbv => .encRsp fbv rbv) ∧
  ∀ (fbv rbv : Bool) (s : State) (q : Nat), q = s.qty.toNat →
    ((fbv = true ∧ rbv = true ∧ 1 ≤ q ∧ q ≤ 125 ∧ s.sid.toNat ≤ 247 ∧ 3 + 2 * q + 2 ≤ s.len.toNat) →
      ∃ t, exec (.encRsp fbv rbv) s = .next t ∧
        t = { s with fb := t.fb, status := .ok, result := BitVec.ofNat 16 (5 + 2 * q) } ∧
        t.fbBytes (5 + 2 * q) = rspFrame s.sid (s.rbWords q) ∧ SameFbOutside (· < 5 + 2 * q) s t) ∧
    (¬ (fbv = true ∧ rbv = true ∧ 1 ≤ q ∧ q ≤ 125 ∧ s.sid.toNat ≤ 247 ∧ 3 + 2 * q + 2 ≤ s.len.toNat) →
      exec (.encRsp fbv rbv) s = .next { s with status := .encodeFail, result := 0 })

/-! ### Round trips and corruption -/

/-- R151: a request that `ENC_REQ` encoded is decoded by `DEC_REQ` to the same triple, by the device of its id or, for a broadcast, by any. -/
def Obligations.RequestRoundTrip : Prop :=
  ∀ s t : State, exec (.encReq true) s = .next t → t.status = .ok →
    ∀ u : State, (∀ a, a < 8 → u.fbRead a = t.fbRead a) → 8 ≤ u.len.toNat → (u.devid = s.sid ∨ s.sid = 0) →
      ∃ v, exec (.decReq true) u = .next v ∧ v.status = .ok ∧ v.oSid = s.sid ∧ v.oAddr = s.addr ∧ v.oQty = s.qty

/-- R132: a response that `ENC_RSP` encoded is decoded by `DEC_RSP` to the same registers in order. -/
def Obligations.ResponseRoundTrip : Prop :=
  ∀ s t : State, exec (.encRsp true true) s = .next t → t.status = .ok →
    ∀ u : State, (∀ a, a < 5 + 2 * s.qty.toNat → u.fbRead a = t.fbRead a) → u.lastreq = s.sid →
      5 + 2 * s.qty.toNat ≤ u.len.toNat → s.qty.toNat ≤ u.ocap.toNat →
      ∃ v, exec (.decRsp true true) u = .next v ∧ v.status = .ok ∧ v.result = s.qty ∧
        ∀ i, i < s.qty.toNat → v.rbRead i = s.rbRead i

/-- R201, R105 (e): of a request frame that `DEC_REQ` accepts, changing any one of its 8 bytes (so any one of its 64 bits) makes the decode fail. -/
def Obligations.CorruptedRequestByteIsRejected : Prop :=
  ∀ (s t : State) (k : Nat) (b : Byte), exec (.decReq true) s = .next t → t.status = .ok → k < 8 → b ≠ s.fbRead k →
    ∃ u, exec (.decReq true) (s.fbWrite k b) = .next u ∧ u.status ≠ .ok

/-- R201, R105 (e): of a response frame that `DEC_RSP` accepts, changing any one byte other than `byte_count` makes the decode fail; raising `byte_count`, with `LEN` the true frame length, gives `InvalidByteCount` or `BufferTooSmall`; lowering it gives `InvalidByteCount` or `IntegrityError` unless the two bytes after the shorter payload happen to be the shorter CRC. -/
def Obligations.CorruptedResponseByteIsRejected : Prop :=
  ∀ (s t : State) (k : Nat) (b : Byte), exec (.decRsp true true) s = .next t → t.status = .ok →
    k < (s.fbRead 2).toNat + 5 → b ≠ s.fbRead k →
    (k ≠ 2 → ∃ u, exec (.decRsp true true) (s.fbWrite k b) = .next u ∧ u.status ≠ .ok) ∧
    (k = 2 → s.len.toNat = (s.fbRead 2).toNat + 5 → (s.fbRead 2).toNat < b.toNat →
      ∃ u, exec (.decRsp true true) (s.fbWrite k b) = .next u ∧
        (u.status = .invalidByteCount ∨ u.status = .bufferTooSmall)) ∧
    (k = 2 → b.toNat < (s.fbRead 2).toNat →
      ∃ u, exec (.decRsp true true) (s.fbWrite k b) = .next u ∧
        (u.status = .invalidByteCount ∨ u.status = .integrityError ∨
          u.status = .ok ∧ crc16 ((s.fbWrite k b).fbBytes (3 + b.toNat)) = s.le16 (3 + b.toNat)))

/-! ### Reserved opcodes -/

/-- R72, R180: each reserved opcode writes `IllegalCommand` and 0, and nothing else in the state changes. -/
def Obligations.ReservedOpcodesAreIllegalCommands : Prop :=
  Selects 0x0 (fun _ _ => .illegal0) ∧ Selects 0xB (fun _ _ => .illegalB) ∧ Selects 0xC (fun _ _ => .illegalC) ∧
    Selects 0xD (fun _ _ => .illegalD) ∧ Selects 0xE (fun _ _ => .illegalE) ∧ Selects 0xF (fun _ _ => .illegalF) ∧
    ∀ s : State,
      exec .illegal0 s = .next { s with status := .illegalCommand, result := 0 } ∧
      exec .illegalB s = .next { s with status := .illegalCommand, result := 0 } ∧
      exec .illegalC s = .next { s with status := .illegalCommand, result := 0 } ∧
      exec .illegalD s = .next { s with status := .illegalCommand, result := 0 } ∧
      exec .illegalE s = .next { s with status := .illegalCommand, result := 0 } ∧
      exec .illegalF s = .next { s with status := .illegalCommand, result := 0 }

/-! ### Rules over all commands -/

/-- R9, R10, R203: every command, in every state, ends in a next state, and does nothing to the outside world's inputs and replies. -/
def Obligations.EveryCommandCompletes : Prop :=
  ∀ (i : Instr) (s : State), ∃ t, exec i s = .next t ∧ SameOutside s t

/-- R21: after any command every operand register holds what it held. -/
def Obligations.CommandsNeverWriteOperandRegisters : Prop :=
  ∀ (i : Instr) (s t : State), exec i s = .next t → SameOperands s t

/-- R22: `O_SID`, `O_ADDR` and `O_QTY` keep their value across every command other than a successful `DEC_REQ`. -/
def Obligations.TripleChangesOnlyBySuccessfulDecReq : Prop :=
  ∀ (i : Instr) (s t : State), exec i s = .next t → ¬ ((∃ fbv, i = .decReq fbv) ∧ t.status = .ok) → SameTriple s t

/-- R25, R26: the only writer of `DEVID` is a successful `SET_ID`, the only writer of `LASTREQ` a successful `ENC_REQ`. -/
def Obligations.HiddenBytesHaveOneWriterEach : Prop :=
  ∀ (i : Instr) (s t : State), exec i s = .next t →
    (¬ (i = .setId ∧ t.status = .ok) → t.devid = s.devid) ∧
    (¬ ((∃ fbv, i = .encReq fbv) ∧ t.status = .ok) → t.lastreq = s.lastreq)

/-- R174: a command that ends in an error writes the code and `RESULT` = 0, and nothing else. -/
def Obligations.AnErrorChangesOnlyStatusAndResult : Prop :=
  ∀ (i : Instr) (s t : State), exec i s = .next t → t.status ≠ .ok → t = { s with status := t.status, result := 0 }

/-- R172: the outcome of a command is one of those listed for it. -/
def Obligations.OutcomesOfEachCommandAreTheListed : Prop :=
  ∀ (i : Instr) (s t : State), exec i s = .next t → t.status ∈ outcomesOf i

/-- R175, R30: no command reads a previous command's `STATUS` or `RESULT`: whatever they held, the outcome is the same. -/
def Obligations.EarlierOutcomeNeverMatters : Prop :=
  ∀ (i : Instr) (s : State) (e : Err) (r : Word), exec i { s with status := e, result := r } = exec i s

/-- R141, R25: of the commands only `DEC_REQ` reads `DEVID`: for every other one, a different `DEVID` changes nothing of the next state but `DEVID`. -/
def Obligations.OnlyDecReqReadsDeviceIdentity : Prop :=
  ∀ (i : Instr) (s : State) (d : Byte), (∀ fbv, i ≠ .decReq fbv) →
    ∃ t d', exec i s = .next t ∧ exec i { s with devid := d } = .next { t with devid := d' }

/-- R26: of the commands only `DEC_RSP` reads `LASTREQ`: for every other one, a different `LASTREQ` changes nothing of the next state but `LASTREQ`. -/
def Obligations.OnlyDecRspReadsLastRequest : Prop :=
  ∀ (i : Instr) (s : State) (l : Byte), (∀ fbv rbv, i ≠ .decRsp fbv rbv) →
    ∃ t l', exec i s = .next t ∧ exec i { s with lastreq := l } = .next { t with lastreq := l' }

/-- R25, R26, R142: no host move that starts no command shows `DEVID` or `LASTREQ`, or changes them: with other values of them the next state, the replies in it, is the same but for them. That inputs and replies are lists is the model's choice (log 1, 4). -/
def Obligations.HostMovesDoNotShowHiddenBytes : Prop :=
  ∀ (s t : State) (m : HostMove) (rest : List Input) (d l : Byte), s.inputs = .host m :: rest →
    (∀ w, m ≠ .regWrite 0 w) → step s = .next t →
    step { s with devid := d, lastreq := l } = .next { t with devid := d, lastreq := l }

/-- R57, R58: the only commands that change a cell of FB are a successful `ENC_REQ` (in `FB[0..7]`) and `ENC_RSP` (in `FB[0..4+2Q]`), the only one that changes a word of RB a successful `DEC_RSP` (in `RB[0..floor(bc/2)-1]`); all of them inside the buffers. -/
def Obligations.BufferCellsACommandMayWrite : Prop :=
  ∀ (i : Instr) (s t : State), exec i s = .next t →
    (∀ a, t.fbRead a ≠ s.fbRead a → t.status = .ok ∧ a ≤ 254 ∧
      ((∃ fbv, i = .encReq fbv) ∧ a < 8 ∨ (∃ fbv rbv, i = .encRsp fbv rbv) ∧ a < 5 + 2 * s.qty.toNat)) ∧
    (∀ k, t.rbRead k ≠ s.rbRead k → t.status = .ok ∧ k ≤ 124 ∧
      (∃ fbv rbv, i = .decRsp fbv rbv) ∧ k < (s.fbRead 2).toNat / 2)

/-- R121, R155, R171: for the encoders `RESULT` = 0 alone tells failure. -/
def Obligations.EncoderResultZeroTellsFailure : Prop :=
  ∀ (i : Instr) (s t : State), ((∃ fbv, i = .encReq fbv) ∨ ∃ fbv rbv, i = .encRsp fbv rbv) → exec i s = .next t →
    (t.result = 0 ↔ t.status = .encodeFail) ∧ (t.status = .ok ∨ t.status = .encodeFail)

/-! ### Fields and the host's moves -/

/-- R76: the two bytes `be16` and `le16` read and `put_be16` and `put_le16` write, which of them is the more significant, that reading back gives the value, and that no other byte changes. -/
def Obligations.FieldAssemblyReturnsTheValue : Prop :=
  ∀ (s : State) (a : Nat) (v : Word),
    (s.be16 a).toNat = (s.fbRead a).toNat * 256 + (s.fbRead (a + 1)).toNat ∧
    (s.le16 a).toNat = (s.fbRead (a + 1)).toNat * 256 + (s.fbRead a).toNat ∧
    ((s.putBe16 a v).fbRead a).toNat = v.toNat / 256 ∧ ((s.putBe16 a v).fbRead (a + 1)).toNat = v.toNat % 256 ∧
    ((s.putLe16 a v).fbRead a).toNat = v.toNat % 256 ∧ ((s.putLe16 a v).fbRead (a + 1)).toNat = v.toNat / 256 ∧
    (s.putBe16 a v).be16 a = v ∧ (s.putLe16 a v).le16 a = v ∧
    SameFbOutside (fun b => b = a ∨ b = a + 1) s (s.putBe16 a v) ∧
    SameFbOutside (fun b => b = a ∨ b = a + 1) s (s.putLe16 a v)

/-- R51, R21, R22, R24, R32: what a host write to a register other than `CMD` stores. That inputs are a list is the model's choice (log 1). -/
def Obligations.HostRegisterWritesStore : Prop :=
  ∀ (s t : State) (i : Nat) (v : Word) (rest : List Input), s.inputs = .host (.regWrite i v) :: rest →
    t = { s with inputs := rest } → 1 ≤ i → i ≤ 15 →
    step s = .next
      (if i = 3 then { t with sid := v.setWidth 8 }
      else if i = 4 then { t with addr := v }
      else if i = 5 then { t with qty := v }
      else if i = 6 then { t with len := v }
      else if i = 7 then { t with ocap := v }
      else if i = 11 then { t with bc := v.setWidth 8 }
      else t)

/-- R51, R21, R23, R24, R32: what a host read of a register replies; the read has no other effect. That inputs and replies are lists is the model's choice (log 1, 4). -/
def Obligations.HostRegisterReadsReply : Prop :=
  ∀ (s : State) (i : Nat) (rest : List Input), s.inputs = .host (.regRead i) :: rest → i ≤ 15 →
    step s = .next { s with inputs := rest, replies := s.replies ++ [.word
      (if i = 1 then s.status.code.setWidth 16
      else if i = 2 then s.result
      else if i = 3 then s.sid.setWidth 16
      else if i = 4 then s.addr
      else if i = 5 then s.qty
      else if i = 6 then s.len
      else if i = 7 then s.ocap
      else if i = 8 then s.oSid.setWidth 16
      else if i = 9 then s.oAddr
      else if i = 10 then s.oQty
      else if i = 11 then s.bc.setWidth 16
      else 0)] }

/-- R51: the host's moves on the two buffers: a write stores one cell and leaves every other, a read replies and has no other effect. That inputs and replies are lists is the model's choice (log 1, 4). -/
def Obligations.HostBufferMoves : Prop :=
  ∀ (s : State) (a : Nat) (rest : List Input),
    (∀ v, s.inputs = .host (.fbWrite a v) :: rest → a ≤ 255 →
      ∃ t, step s = .next t ∧ t = { s with inputs := rest, fb := t.fb } ∧
        ∀ b, t.fbRead b = if b = a then v else s.fbRead b) ∧
    (s.inputs = .host (.fbRead a) :: rest → a ≤ 255 →
      step s = .next { s with inputs := rest, replies := s.replies ++ [.byte (s.fbRead a)] }) ∧
    (∀ v, s.inputs = .host (.rbWrite a v) :: rest → a ≤ 124 →
      ∃ t, step s = .next t ∧ t = { s with inputs := rest, rb := t.rb } ∧
        ∀ b, t.rbRead b = if b = a then v else s.rbRead b) ∧
    (s.inputs = .host (.rbRead a) :: rest → a ≤ 124 →
      step s = .next { s with inputs := rest, replies := s.replies ++ [.word (s.rbRead a)] })

/-- R51, U9 of 93_implementation_defined.md: a move whose precondition fails has no meaning: it is refused. That inputs are a list (log 1), and that the refusal ends the run under these names (log 6), is the model's. -/
def Obligations.MovesOutsideTheirSpaceAreRefused : Prop :=
  ∀ (s : State) (n : Nat) (rest : List Input),
    (15 < n → (s.inputs = .host (.regRead n) :: rest ∨ ∃ v, s.inputs = .host (.regWrite n v) :: rest) →
      step s = .refused (.regIndexOutOfRange n)) ∧
    (255 < n → (s.inputs = .host (.fbRead n) :: rest ∨ ∃ v, s.inputs = .host (.fbWrite n v) :: rest) →
      step s = .refused (.fbAddressOutOfRange n)) ∧
    (124 < n → (s.inputs = .host (.rbRead n) :: rest ∨ ∃ v, s.inputs = .host (.rbWrite n v) :: rest) →
      step s = .refused (.rbIndexOutOfRange n))

/-- R60: a host read of an FB byte replies with the most recent write to it, whatever host moves lie between that start no command and do not write that byte. That inputs and replies are lists is the model's choice (log 1, 4). -/
def Obligations.BufferReadsReturnTheLatestWrite : Prop :=
  ∀ (s : State) (a : Nat) (v : Byte) (mid : List HostMove), a ≤ 255 →
    (∀ m ∈ mid, m.wf = true ∧ (∀ w, m ≠ .regWrite 0 w) ∧ ∀ v', m ≠ .fbWrite a v') →
    s.inputs = .host (.fbWrite a v) :: (mid.map Input.host ++ [.host (.fbRead a)]) →
    ∃ t, core.run (mid.length + 2) s = .next t ∧ t.inputs = [] ∧ ∃ early, t.replies = early ++ [.byte v]

/-- R171, R24: the numeric codes of the outcomes; read by the host, `STATUS` has them in bits [3:0] and 0 above, and 11 to 14 never appear. -/
def Obligations.StatusCodesAreTheTable : Prop :=
  [Err.ok, .invalidArgument, .invalidRange, .bufferTooSmall, .outputTooSmall, .identityMismatch, .slaveMismatch,
    .functionMismatch, .integrityError, .invalidByteCount, .encodeFail, .illegalCommand].map Err.code =
      [0, 1, 2, 3, 4, 5, 6, 7, 8, 9, 10, 15] ∧
  ∀ s : State, s.readReg .status = s.status.code.setWidth 16 ∧
    ((s.readReg .status).toNat ≤ 10 ∨ (s.readReg .status).toNat = 15)

/-! ### Reset, runs and invariants -/

/-- R33: the registers and hidden bytes after reset. That no input is to come and no reply has been given is the model's choice (log 1, 4). -/
def Obligations.ResetRegisterValues : Prop :=
  State.reset.sid = 0 ∧ State.reset.addr = 0 ∧ State.reset.qty = 0 ∧ State.reset.len = 0 ∧ State.reset.ocap = 0 ∧
    State.reset.bc = 0 ∧ State.reset.status = .ok ∧ State.reset.result = 0 ∧ State.reset.oSid = 0 ∧
    State.reset.oAddr = 0 ∧ State.reset.oQty = 0 ∧ State.reset.devid = 0x00 ∧ State.reset.lastreq = 0x00 ∧
    State.reset.inputs = [] ∧ State.reset.replies = []

/-- R190, R33: a reset, from any state, puts every register and both hidden bytes at their reset values. That each buffer is then again the list of all its cells (the two `Memory.wf` clauses) is the model's choice (log 3), and so is that inputs and replies are lists (log 1, 4) and that a reset keeps them (log 5). -/
def Obligations.ResetInputSetsEveryRegister : Prop :=
  ∀ (s : State) (rest : List Input), s.inputs = .reset :: rest →
    ∃ t, step s = .next t ∧ t.sid = 0 ∧ t.addr = 0 ∧ t.qty = 0 ∧ t.len = 0 ∧ t.ocap = 0 ∧ t.bc = 0 ∧ t.status = .ok ∧
      t.result = 0 ∧ t.oSid = 0 ∧ t.oAddr = 0 ∧ t.oQty = 0 ∧ t.devid = 0x00 ∧ t.lastreq = 0x00 ∧
      Memory.wf 256 t.fb ∧ Memory.wf 125 t.rb ∧ t.inputs = rest ∧ t.replies = s.replies

/-- The invariant holds after reset (R25, R26, R27, R28, R33). That a buffer is the list of all its cells is the model's choice (log 3). -/
def Obligations.InvariantHoldsAfterReset : Prop := State.reset.Inv

/-- R25, R26, R27, R28: every step, from every state that meets the invariant, keeps it: both buffers hold exactly their space in order, `DEVID` and `LASTREQ` stay in 0..247. That a buffer is the list of all its cells is the model's choice (log 3). -/
def Obligations.EveryStepKeepsTheInvariant : Prop :=
  ∀ s t : State, s.Inv → step s = .next t → t.Inv

/-- R10: a run whose inputs are admitted never stops: however long, it ends in a next state, having taken its inputs one by one. That inputs are a list, and that an idle step changes nothing, is the model's choice (log 1), and so is that a reset keeps the inputs to come (log 5). -/
def Obligations.AdmittedRunsNeverStop : Prop :=
  ∀ (n : Nat) (s : State), s.Admitted → ∃ t, core.run n s = .next t ∧ t.inputs = s.inputs.drop n ∧ t.Admitted

/-- R8, R10: a step takes exactly one input, the first, and adds none; replies already given stay. That both are lists is the model's choice (log 1, 4), and so is that a reset keeps them (log 5). -/
def Obligations.EachStepTakesOneInput : Prop :=
  ∀ s t : State, step s = .next t → t.inputs = s.inputs.tail ∧ ∃ more, t.replies = s.replies ++ more ∧ more.length ≤ 1

/-- R10, R181: with no input to come the core is idle. That an idle step is a next state that changes nothing is the model's choice (log 1). -/
def Obligations.IdleCoreStaysAsItIs : Prop := ∀ s : State, s.inputs = [] → step s = .next s
end

