-- ==== Sys2Proof/Laws/State.lean ====
section
/-! SUPPORT. One lemma per field per update of State, true by definition, so that no later proof unfolds a record update. -/

namespace Sys2Proof.Machine

/-! ### `fbWrite` -/

@[simp] theorem State.fbWrite_sid (s : State) (a : Nat) (v : Byte) : (s.fbWrite a v).sid = s.sid := rfl
@[simp] theorem State.fbWrite_addr (s : State) (a : Nat) (v : Byte) : (s.fbWrite a v).addr = s.addr := rfl
@[simp] theorem State.fbWrite_qty (s : State) (a : Nat) (v : Byte) : (s.fbWrite a v).qty = s.qty := rfl
@[simp] theorem State.fbWrite_len (s : State) (a : Nat) (v : Byte) : (s.fbWrite a v).len = s.len := rfl
@[simp] theorem State.fbWrite_ocap (s : State) (a : Nat) (v : Byte) : (s.fbWrite a v).ocap = s.ocap := rfl
@[simp] theorem State.fbWrite_bc (s : State) (a : Nat) (v : Byte) : (s.fbWrite a v).bc = s.bc := rfl
@[simp] theorem State.fbWrite_status (s : State) (a : Nat) (v : Byte) : (s.fbWrite a v).status = s.status := rfl
@[simp] theorem State.fbWrite_result (s : State) (a : Nat) (v : Byte) : (s.fbWrite a v).result = s.result := rfl
@[simp] theorem State.fbWrite_oSid (s : State) (a : Nat) (v : Byte) : (s.fbWrite a v).oSid = s.oSid := rfl
@[simp] theorem State.fbWrite_oAddr (s : State) (a : Nat) (v : Byte) : (s.fbWrite a v).oAddr = s.oAddr := rfl
@[simp] theorem State.fbWrite_oQty (s : State) (a : Nat) (v : Byte) : (s.fbWrite a v).oQty = s.oQty := rfl
@[simp] theorem State.fbWrite_devid (s : State) (a : Nat) (v : Byte) : (s.fbWrite a v).devid = s.devid := rfl
@[simp] theorem State.fbWrite_lastreq (s : State) (a : Nat) (v : Byte) : (s.fbWrite a v).lastreq = s.lastreq := rfl
@[simp] theorem State.fbWrite_fb (s : State) (a : Nat) (v : Byte) : (s.fbWrite a v).fb = Memory.write s.fb a v := rfl
@[simp] theorem State.fbWrite_rb (s : State) (a : Nat) (v : Byte) : (s.fbWrite a v).rb = s.rb := rfl
@[simp] theorem State.fbWrite_inputs (s : State) (a : Nat) (v : Byte) : (s.fbWrite a v).inputs = s.inputs := rfl
@[simp] theorem State.fbWrite_replies (s : State) (a : Nat) (v : Byte) : (s.fbWrite a v).replies = s.replies := rfl
@[simp] theorem State.fbWrite_epoch (s : State) (a : Nat) (v : Byte) : (s.fbWrite a v).epoch = s.epoch := rfl

/-! ### `rbWrite` -/

@[simp] theorem State.rbWrite_sid (s : State) (i : Nat) (v : Word) : (s.rbWrite i v).sid = s.sid := rfl
@[simp] theorem State.rbWrite_addr (s : State) (i : Nat) (v : Word) : (s.rbWrite i v).addr = s.addr := rfl
@[simp] theorem State.rbWrite_qty (s : State) (i : Nat) (v : Word) : (s.rbWrite i v).qty = s.qty := rfl
@[simp] theorem State.rbWrite_len (s : State) (i : Nat) (v : Word) : (s.rbWrite i v).len = s.len := rfl
@[simp] theorem State.rbWrite_ocap (s : State) (i : Nat) (v : Word) : (s.rbWrite i v).ocap = s.ocap := rfl
@[simp] theorem State.rbWrite_bc (s : State) (i : Nat) (v : Word) : (s.rbWrite i v).bc = s.bc := rfl
@[simp] theorem State.rbWrite_status (s : State) (i : Nat) (v : Word) : (s.rbWrite i v).status = s.status := rfl
@[simp] theorem State.rbWrite_result (s : State) (i : Nat) (v : Word) : (s.rbWrite i v).result = s.result := rfl
@[simp] theorem State.rbWrite_oSid (s : State) (i : Nat) (v : Word) : (s.rbWrite i v).oSid = s.oSid := rfl
@[simp] theorem State.rbWrite_oAddr (s : State) (i : Nat) (v : Word) : (s.rbWrite i v).oAddr = s.oAddr := rfl
@[simp] theorem State.rbWrite_oQty (s : State) (i : Nat) (v : Word) : (s.rbWrite i v).oQty = s.oQty := rfl
@[simp] theorem State.rbWrite_devid (s : State) (i : Nat) (v : Word) : (s.rbWrite i v).devid = s.devid := rfl
@[simp] theorem State.rbWrite_lastreq (s : State) (i : Nat) (v : Word) : (s.rbWrite i v).lastreq = s.lastreq := rfl
@[simp] theorem State.rbWrite_fb (s : State) (i : Nat) (v : Word) : (s.rbWrite i v).fb = s.fb := rfl
@[simp] theorem State.rbWrite_rb (s : State) (i : Nat) (v : Word) : (s.rbWrite i v).rb = Memory.write s.rb i v := rfl
@[simp] theorem State.rbWrite_inputs (s : State) (i : Nat) (v : Word) : (s.rbWrite i v).inputs = s.inputs := rfl
@[simp] theorem State.rbWrite_replies (s : State) (i : Nat) (v : Word) : (s.rbWrite i v).replies = s.replies := rfl
@[simp] theorem State.rbWrite_epoch (s : State) (i : Nat) (v : Word) : (s.rbWrite i v).epoch = s.epoch := rfl

/-! ### `setDevid` -/

@[simp] theorem State.setDevid_sid (s : State) (v : Byte) : (s.setDevid v).sid = s.sid := rfl
@[simp] theorem State.setDevid_addr (s : State) (v : Byte) : (s.setDevid v).addr = s.addr := rfl
@[simp] theorem State.setDevid_qty (s : State) (v : Byte) : (s.setDevid v).qty = s.qty := rfl
@[simp] theorem State.setDevid_len (s : State) (v : Byte) : (s.setDevid v).len = s.len := rfl
@[simp] theorem State.setDevid_ocap (s : State) (v : Byte) : (s.setDevid v).ocap = s.ocap := rfl
@[simp] theorem State.setDevid_bc (s : State) (v : Byte) : (s.setDevid v).bc = s.bc := rfl
@[simp] theorem State.setDevid_status (s : State) (v : Byte) : (s.setDevid v).status = s.status := rfl
@[simp] theorem State.setDevid_result (s : State) (v : Byte) : (s.setDevid v).result = s.result := rfl
@[simp] theorem State.setDevid_oSid (s : State) (v : Byte) : (s.setDevid v).oSid = s.oSid := rfl
@[simp] theorem State.setDevid_oAddr (s : State) (v : Byte) : (s.setDevid v).oAddr = s.oAddr := rfl
@[simp] theorem State.setDevid_oQty (s : State) (v : Byte) : (s.setDevid v).oQty = s.oQty := rfl
@[simp] theorem State.setDevid_devid (s : State) (v : Byte) : (s.setDevid v).devid = v := rfl
@[simp] theorem State.setDevid_lastreq (s : State) (v : Byte) : (s.setDevid v).lastreq = s.lastreq := rfl
@[simp] theorem State.setDevid_fb (s : State) (v : Byte) : (s.setDevid v).fb = s.fb := rfl
@[simp] theorem State.setDevid_rb (s : State) (v : Byte) : (s.setDevid v).rb = s.rb := rfl
@[simp] theorem State.setDevid_inputs (s : State) (v : Byte) : (s.setDevid v).inputs = s.inputs := rfl
@[simp] theorem State.setDevid_replies (s : State) (v : Byte) : (s.setDevid v).replies = s.replies := rfl
@[simp] theorem State.setDevid_epoch (s : State) (v : Byte) : (s.setDevid v).epoch = s.epoch := rfl

/-! ### `setLastreq` -/

@[simp] theorem State.setLastreq_sid (s : State) (v : Byte) : (s.setLastreq v).sid = s.sid := rfl
@[simp] theorem State.setLastreq_addr (s : State) (v : Byte) : (s.setLastreq v).addr = s.addr := rfl
@[simp] theorem State.setLastreq_qty (s : State) (v : Byte) : (s.setLastreq v).qty = s.qty := rfl
@[simp] theorem State.setLastreq_len (s : State) (v : Byte) : (s.setLastreq v).len = s.len := rfl
@[simp] theorem State.setLastreq_ocap (s : State) (v : Byte) : (s.setLastreq v).ocap = s.ocap := rfl
@[simp] theorem State.setLastreq_bc (s : State) (v : Byte) : (s.setLastreq v).bc = s.bc := rfl
@[simp] theorem State.setLastreq_status (s : State) (v : Byte) : (s.setLastreq v).status = s.status := rfl
@[simp] theorem State.setLastreq_result (s : State) (v : Byte) : (s.setLastreq v).result = s.result := rfl
@[simp] theorem State.setLastreq_oSid (s : State) (v : Byte) : (s.setLastreq v).oSid = s.oSid := rfl
@[simp] theorem State.setLastreq_oAddr (s : State) (v : Byte) : (s.setLastreq v).oAddr = s.oAddr := rfl
@[simp] theorem State.setLastreq_oQty (s : State) (v : Byte) : (s.setLastreq v).oQty = s.oQty := rfl
@[simp] theorem State.setLastreq_devid (s : State) (v : Byte) : (s.setLastreq v).devid = s.devid := rfl
@[simp] theorem State.setLastreq_lastreq (s : State) (v : Byte) : (s.setLastreq v).lastreq = v := rfl
@[simp] theorem State.setLastreq_fb (s : State) (v : Byte) : (s.setLastreq v).fb = s.fb := rfl
@[simp] theorem State.setLastreq_rb (s : State) (v : Byte) : (s.setLastreq v).rb = s.rb := rfl
@[simp] theorem State.setLastreq_inputs (s : State) (v : Byte) : (s.setLastreq v).inputs = s.inputs := rfl
@[simp] theorem State.setLastreq_replies (s : State) (v : Byte) : (s.setLastreq v).replies = s.replies := rfl
@[simp] theorem State.setLastreq_epoch (s : State) (v : Byte) : (s.setLastreq v).epoch = s.epoch := rfl

/-! ### `setTriple` -/

@[simp] theorem State.setTriple_sid (s : State) (v : Byte) (a q : Word) : (s.setTriple v a q).sid = s.sid := rfl
@[simp] theorem State.setTriple_addr (s : State) (v : Byte) (a q : Word) : (s.setTriple v a q).addr = s.addr := rfl
@[simp] theorem State.setTriple_qty (s : State) (v : Byte) (a q : Word) : (s.setTriple v a q).qty = s.qty := rfl
@[simp] theorem State.setTriple_len (s : State) (v : Byte) (a q : Word) : (s.setTriple v a q).len = s.len := rfl
@[simp] theorem State.setTriple_ocap (s : State) (v : Byte) (a q : Word) : (s.setTriple v a q).ocap = s.ocap := rfl
@[simp] theorem State.setTriple_bc (s : State) (v : Byte) (a q : Word) : (s.setTriple v a q).bc = s.bc := rfl
@[simp] theorem State.setTriple_status (s : State) (v : Byte) (a q : Word) : (s.setTriple v a q).status = s.status := rfl
@[simp] theorem State.setTriple_result (s : State) (v : Byte) (a q : Word) : (s.setTriple v a q).result = s.result := rfl
@[simp] theorem State.setTriple_oSid (s : State) (v : Byte) (a q : Word) : (s.setTriple v a q).oSid = v := rfl
@[simp] theorem State.setTriple_oAddr (s : State) (v : Byte) (a q : Word) : (s.setTriple v a q).oAddr = a := rfl
@[simp] theorem State.setTriple_oQty (s : State) (v : Byte) (a q : Word) : (s.setTriple v a q).oQty = q := rfl
@[simp] theorem State.setTriple_devid (s : State) (v : Byte) (a q : Word) : (s.setTriple v a q).devid = s.devid := rfl
@[simp] theorem State.setTriple_lastreq (s : State) (v : Byte) (a q : Word) : (s.setTriple v a q).lastreq = s.lastreq := rfl
@[simp] theorem State.setTriple_fb (s : State) (v : Byte) (a q : Word) : (s.setTriple v a q).fb = s.fb := rfl
@[simp] theorem State.setTriple_rb (s : State) (v : Byte) (a q : Word) : (s.setTriple v a q).rb = s.rb := rfl
@[simp] theorem State.setTriple_inputs (s : State) (v : Byte) (a q : Word) : (s.setTriple v a q).inputs = s.inputs := rfl
@[simp] theorem State.setTriple_replies (s : State) (v : Byte) (a q : Word) : (s.setTriple v a q).replies = s.replies := rfl
@[simp] theorem State.setTriple_epoch (s : State) (v : Byte) (a q : Word) : (s.setTriple v a q).epoch = s.epoch := rfl

/-! ### `finish` -/

@[simp] theorem State.finish_sid (s : State) (e : Err) (r : Word) : (s.finish e r).sid = s.sid := rfl
@[simp] theorem State.finish_addr (s : State) (e : Err) (r : Word) : (s.finish e r).addr = s.addr := rfl
@[simp] theorem State.finish_qty (s : State) (e : Err) (r : Word) : (s.finish e r).qty = s.qty := rfl
@[simp] theorem State.finish_len (s : State) (e : Err) (r : Word) : (s.finish e r).len = s.len := rfl
@[simp] theorem State.finish_ocap (s : State) (e : Err) (r : Word) : (s.finish e r).ocap = s.ocap := rfl
@[simp] theorem State.finish_bc (s : State) (e : Err) (r : Word) : (s.finish e r).bc = s.bc := rfl
@[simp] theorem State.finish_status (s : State) (e : Err) (r : Word) : (s.finish e r).status = e := rfl
@[simp] theorem State.finish_result (s : State) (e : Err) (r : Word) : (s.finish e r).result = r := rfl
@[simp] theorem State.finish_oSid (s : State) (e : Err) (r : Word) : (s.finish e r).oSid = s.oSid := rfl
@[simp] theorem State.finish_oAddr (s : State) (e : Err) (r : Word) : (s.finish e r).oAddr = s.oAddr := rfl
@[simp] theorem State.finish_oQty (s : State) (e : Err) (r : Word) : (s.finish e r).oQty = s.oQty := rfl
@[simp] theorem State.finish_devid (s : State) (e : Err) (r : Word) : (s.finish e r).devid = s.devid := rfl
@[simp] theorem State.finish_lastreq (s : State) (e : Err) (r : Word) : (s.finish e r).lastreq = s.lastreq := rfl
@[simp] theorem State.finish_fb (s : State) (e : Err) (r : Word) : (s.finish e r).fb = s.fb := rfl
@[simp] theorem State.finish_rb (s : State) (e : Err) (r : Word) : (s.finish e r).rb = s.rb := rfl
@[simp] theorem State.finish_inputs (s : State) (e : Err) (r : Word) : (s.finish e r).inputs = s.inputs := rfl
@[simp] theorem State.finish_replies (s : State) (e : Err) (r : Word) : (s.finish e r).replies = s.replies := rfl
@[simp] theorem State.finish_epoch (s : State) (e : Err) (r : Word) : (s.finish e r).epoch = s.epoch := rfl

/-! ### `fail` -/

@[simp] theorem State.fail_sid (s : State) (e : Err) : (s.fail e).sid = s.sid := rfl
@[simp] theorem State.fail_addr (s : State) (e : Err) : (s.fail e).addr = s.addr := rfl
@[simp] theorem State.fail_qty (s : State) (e : Err) : (s.fail e).qty = s.qty := rfl
@[simp] theorem State.fail_len (s : State) (e : Err) : (s.fail e).len = s.len := rfl
@[simp] theorem State.fail_ocap (s : State) (e : Err) : (s.fail e).ocap = s.ocap := rfl
@[simp] theorem State.fail_bc (s : State) (e : Err) : (s.fail e).bc = s.bc := rfl
@[simp] theorem State.fail_status (s : State) (e : Err) : (s.fail e).status = e := rfl
@[simp] theorem State.fail_result (s : State) (e : Err) : (s.fail e).result = 0 := rfl
@[simp] theorem State.fail_oSid (s : State) (e : Err) : (s.fail e).oSid = s.oSid := rfl
@[simp] theorem State.fail_oAddr (s : State) (e : Err) : (s.fail e).oAddr = s.oAddr := rfl
@[simp] theorem State.fail_oQty (s : State) (e : Err) : (s.fail e).oQty = s.oQty := rfl
@[simp] theorem State.fail_devid (s : State) (e : Err) : (s.fail e).devid = s.devid := rfl
@[simp] theorem State.fail_lastreq (s : State) (e : Err) : (s.fail e).lastreq = s.lastreq := rfl
@[simp] theorem State.fail_fb (s : State) (e : Err) : (s.fail e).fb = s.fb := rfl
@[simp] theorem State.fail_rb (s : State) (e : Err) : (s.fail e).rb = s.rb := rfl
@[simp] theorem State.fail_inputs (s : State) (e : Err) : (s.fail e).inputs = s.inputs := rfl
@[simp] theorem State.fail_replies (s : State) (e : Err) : (s.fail e).replies = s.replies := rfl
@[simp] theorem State.fail_epoch (s : State) (e : Err) : (s.fail e).epoch = s.epoch := rfl

/-! ### `reply` -/

@[simp] theorem State.reply_sid (s : State) (r : Reply) : (s.reply r).sid = s.sid := rfl
@[simp] theorem State.reply_addr (s : State) (r : Reply) : (s.reply r).addr = s.addr := rfl
@[simp] theorem State.reply_qty (s : State) (r : Reply) : (s.reply r).qty = s.qty := rfl
@[simp] theorem State.reply_len (s : State) (r : Reply) : (s.reply r).len = s.len := rfl
@[simp] theorem State.reply_ocap (s : State) (r : Reply) : (s.reply r).ocap = s.ocap := rfl
@[simp] theorem State.reply_bc (s : State) (r : Reply) : (s.reply r).bc = s.bc := rfl
@[simp] theorem State.reply_status (s : State) (r : Reply) : (s.reply r).status = s.status := rfl
@[simp] theorem State.reply_result (s : State) (r : Reply) : (s.reply r).result = s.result := rfl
@[simp] theorem State.reply_oSid (s : State) (r : Reply) : (s.reply r).oSid = s.oSid := rfl
@[simp] theorem State.reply_oAddr (s : State) (r : Reply) : (s.reply r).oAddr = s.oAddr := rfl
@[simp] theorem State.reply_oQty (s : State) (r : Reply) : (s.reply r).oQty = s.oQty := rfl
@[simp] theorem State.reply_devid (s : State) (r : Reply) : (s.reply r).devid = s.devid := rfl
@[simp] theorem State.reply_lastreq (s : State) (r : Reply) : (s.reply r).lastreq = s.lastreq := rfl
@[simp] theorem State.reply_fb (s : State) (r : Reply) : (s.reply r).fb = s.fb := rfl
@[simp] theorem State.reply_rb (s : State) (r : Reply) : (s.reply r).rb = s.rb := rfl
@[simp] theorem State.reply_inputs (s : State) (r : Reply) : (s.reply r).inputs = s.inputs := rfl
@[simp] theorem State.reply_replies (s : State) (r : Reply) : (s.reply r).replies = s.replies ++ [r] := rfl
@[simp] theorem State.reply_epoch (s : State) (r : Reply) : (s.reply r).epoch = s.epoch := rfl

/-! ### `takeReset` -/

@[simp] theorem State.takeReset_sid (s : State) : s.takeReset.sid = 0 := rfl
@[simp] theorem State.takeReset_addr (s : State) : s.takeReset.addr = 0 := rfl
@[simp] theorem State.takeReset_qty (s : State) : s.takeReset.qty = 0 := rfl
@[simp] theorem State.takeReset_len (s : State) : s.takeReset.len = 0 := rfl
@[simp] theorem State.takeReset_ocap (s : State) : s.takeReset.ocap = 0 := rfl
@[simp] theorem State.takeReset_bc (s : State) : s.takeReset.bc = 0 := rfl
@[simp] theorem State.takeReset_status (s : State) : s.takeReset.status = .ok := rfl
@[simp] theorem State.takeReset_result (s : State) : s.takeReset.result = 0 := rfl
@[simp] theorem State.takeReset_oSid (s : State) : s.takeReset.oSid = 0 := rfl
@[simp] theorem State.takeReset_oAddr (s : State) : s.takeReset.oAddr = 0 := rfl
@[simp] theorem State.takeReset_oQty (s : State) : s.takeReset.oQty = 0 := rfl
@[simp] theorem State.takeReset_devid (s : State) : s.takeReset.devid = Config.devidReset := rfl
@[simp] theorem State.takeReset_lastreq (s : State) : s.takeReset.lastreq = Config.lastreqReset := rfl
@[simp] theorem State.takeReset_fb (s : State) : s.takeReset.fb = freshFb (s.epoch + 1) := rfl
@[simp] theorem State.takeReset_rb (s : State) : s.takeReset.rb = freshRb (s.epoch + 1) := rfl
@[simp] theorem State.takeReset_inputs (s : State) : s.takeReset.inputs = s.inputs := rfl
@[simp] theorem State.takeReset_replies (s : State) : s.takeReset.replies = s.replies := rfl
@[simp] theorem State.takeReset_epoch (s : State) : s.takeReset.epoch = s.epoch + 1 := rfl

/-! ### `writeReg`: a host write reaches operand registers only -/

@[simp] theorem State.writeReg_status (s : State) (r : RegName) (v : Word) : (s.writeReg r v).status = s.status := by cases r <;> rfl
@[simp] theorem State.writeReg_result (s : State) (r : RegName) (v : Word) : (s.writeReg r v).result = s.result := by cases r <;> rfl
@[simp] theorem State.writeReg_oSid (s : State) (r : RegName) (v : Word) : (s.writeReg r v).oSid = s.oSid := by cases r <;> rfl
@[simp] theorem State.writeReg_oAddr (s : State) (r : RegName) (v : Word) : (s.writeReg r v).oAddr = s.oAddr := by cases r <;> rfl
@[simp] theorem State.writeReg_oQty (s : State) (r : RegName) (v : Word) : (s.writeReg r v).oQty = s.oQty := by cases r <;> rfl
@[simp] theorem State.writeReg_devid (s : State) (r : RegName) (v : Word) : (s.writeReg r v).devid = s.devid := by cases r <;> rfl
@[simp] theorem State.writeReg_lastreq (s : State) (r : RegName) (v : Word) : (s.writeReg r v).lastreq = s.lastreq := by cases r <;> rfl
@[simp] theorem State.writeReg_fb (s : State) (r : RegName) (v : Word) : (s.writeReg r v).fb = s.fb := by cases r <;> rfl
@[simp] theorem State.writeReg_rb (s : State) (r : RegName) (v : Word) : (s.writeReg r v).rb = s.rb := by cases r <;> rfl
@[simp] theorem State.writeReg_inputs (s : State) (r : RegName) (v : Word) : (s.writeReg r v).inputs = s.inputs := by cases r <;> rfl
@[simp] theorem State.writeReg_replies (s : State) (r : RegName) (v : Word) : (s.writeReg r v).replies = s.replies := by cases r <;> rfl
@[simp] theorem State.writeReg_epoch (s : State) (r : RegName) (v : Word) : (s.writeReg r v).epoch = s.epoch := by cases r <;> rfl

/-! ### `writeIndex` -/

@[simp] theorem State.writeIndex_status (s : State) (i : Nat) (v : Word) : (s.writeIndex i v).status = s.status := by unfold State.writeIndex; split <;> simp
@[simp] theorem State.writeIndex_result (s : State) (i : Nat) (v : Word) : (s.writeIndex i v).result = s.result := by unfold State.writeIndex; split <;> simp
@[simp] theorem State.writeIndex_oSid (s : State) (i : Nat) (v : Word) : (s.writeIndex i v).oSid = s.oSid := by unfold State.writeIndex; split <;> simp
@[simp] theorem State.writeIndex_oAddr (s : State) (i : Nat) (v : Word) : (s.writeIndex i v).oAddr = s.oAddr := by unfold State.writeIndex; split <;> simp
@[simp] theorem State.writeIndex_oQty (s : State) (i : Nat) (v : Word) : (s.writeIndex i v).oQty = s.oQty := by unfold State.writeIndex; split <;> simp
@[simp] theorem State.writeIndex_devid (s : State) (i : Nat) (v : Word) : (s.writeIndex i v).devid = s.devid := by unfold State.writeIndex; split <;> simp
@[simp] theorem State.writeIndex_lastreq (s : State) (i : Nat) (v : Word) : (s.writeIndex i v).lastreq = s.lastreq := by unfold State.writeIndex; split <;> simp
@[simp] theorem State.writeIndex_fb (s : State) (i : Nat) (v : Word) : (s.writeIndex i v).fb = s.fb := by unfold State.writeIndex; split <;> simp
@[simp] theorem State.writeIndex_rb (s : State) (i : Nat) (v : Word) : (s.writeIndex i v).rb = s.rb := by unfold State.writeIndex; split <;> simp
@[simp] theorem State.writeIndex_inputs (s : State) (i : Nat) (v : Word) : (s.writeIndex i v).inputs = s.inputs := by unfold State.writeIndex; split <;> simp
@[simp] theorem State.writeIndex_replies (s : State) (i : Nat) (v : Word) : (s.writeIndex i v).replies = s.replies := by unfold State.writeIndex; split <;> simp
@[simp] theorem State.writeIndex_epoch (s : State) (i : Nat) (v : Word) : (s.writeIndex i v).epoch = s.epoch := by unfold State.writeIndex; split <;> simp

end Sys2Proof.Machine
end

