-- ==== Sys2Proof/Laws/Memory.lean ====
section
/-! SUPPORT. Memories: read after write, the canonical form and that every operation keeps it, and what a buffer operation leaves readable (20_memory.md R58, R60; log 3). -/

namespace Sys2Proof.Machine

/-! ### Lookup and write -/

@[simp] theorem Memory.lookup_write_same {α : Type} (m : Memory α) (a : Nat) (v : α) :
    Memory.lookup (Memory.write m a v) a = some v := by
  induction m with
  | nil => simp [Memory.write, Memory.lookup]
  | cons c t ih =>
    obtain ⟨k, w⟩ := c
    simp only [Memory.write]
    split_ifs with h₁ h₂
    · simp [Memory.lookup]
    · simp [Memory.lookup]
    · simp [Memory.lookup, Ne.symm h₂, ih]

theorem Memory.lookup_write_ne {α : Type} (m : Memory α) {a b : Nat} (v : α) (h : b ≠ a) :
    Memory.lookup (Memory.write m a v) b = Memory.lookup m b := by
  induction m with
  | nil => simp [Memory.write, Memory.lookup, Ne.symm h]
  | cons c t ih =>
    obtain ⟨k, w⟩ := c
    simp only [Memory.write]
    split_ifs with h₁ h₂
    · simp [Memory.lookup, Ne.symm h]
    · simp [Memory.lookup, ← h₂, Ne.symm h]
    · simp [Memory.lookup, ih]

/-! ### The canonical form -/

theorem Memory.map_fst_write_of_mem {α : Type} (m : Memory α) (a : Nat) (v : α)
    (hs : (m.map Prod.fst).Pairwise (· < ·)) (ha : a ∈ m.map Prod.fst) :
    (Memory.write m a v).map Prod.fst = m.map Prod.fst := by
  induction m with
  | nil => simp at ha
  | cons c t ih =>
    obtain ⟨k, w⟩ := c
    simp only [List.map_cons, List.pairwise_cons, List.mem_cons] at hs ha
    simp only [Memory.write]
    split_ifs with h₁ h₂
    · rcases ha with h | h
      · omega
      · have := hs.1 a h; omega
    · simp [h₂]
    · simp [ih hs.2 (ha.resolve_left h₂)]

/-- A write inside the space keeps the canonical form. -/
theorem Memory.wf_write {α : Type} {size : Nat} {m : Memory α} (h : Memory.wf size m) {a : Nat} (ha : a < size) (v : α) :
    Memory.wf size (Memory.write m a v) := by
  unfold Memory.wf at *
  rw [Memory.map_fst_write_of_mem m a v (h ▸ List.pairwise_lt_range) (by simp [h, ha]), h]

/-- A canonical memory lists its addresses in rising order. -/
theorem Memory.wf_rising {α : Type} {size : Nat} {m : Memory α} (h : Memory.wf size m) :
    (m.map Prod.fst).Pairwise (· < ·) := h ▸ List.pairwise_lt_range

theorem Memory.lookup_isSome_iff {α : Type} (m : Memory α) (a : Nat) :
    (Memory.lookup m a).isSome ↔ a ∈ m.map Prod.fst := by
  induction m with
  | nil => simp [Memory.lookup]
  | cons c t ih =>
    obtain ⟨k, w⟩ := c
    by_cases h : k = a
    · simp [Memory.lookup, h]
    · simp only [Memory.lookup, if_neg h, ih, List.map_cons, List.mem_cons, Ne.symm h, false_or]

/-- In a canonical memory every address of the space is listed, and no other. -/
theorem Memory.lookup_isSome_of_wf {α : Type} {size : Nat} {m : Memory α} (h : Memory.wf size m) (a : Nat) :
    (Memory.lookup m a).isSome ↔ a < size := by
  rw [Memory.lookup_isSome_iff, h, List.mem_range]

theorem freshFb_wf (e : Nat) : Memory.wf Config.fbufSize (freshFb e) := by
  simp [Memory.wf, freshFb, Function.comp_def]

theorem freshRb_wf (e : Nat) : Memory.wf Config.rbufSize (freshRb e) := by
  simp [Memory.wf, freshRb, Function.comp_def]

/-! ### The two buffers of a state -/

theorem State.fbRead_fbWrite (s : State) (a b : Nat) (v : Byte) :
    (s.fbWrite a v).fbRead b = if b = a then v else s.fbRead b := by
  unfold State.fbRead
  by_cases h : b = a
  · simp [h]
  · simp [h, Memory.lookup_write_ne s.fb v h]

theorem State.rbRead_rbWrite (s : State) (i j : Nat) (v : Word) :
    (s.rbWrite i v).rbRead j = if j = i then v else s.rbRead j := by
  unfold State.rbRead
  by_cases h : j = i
  · simp [h]
  · simp [h, Memory.lookup_write_ne s.rb v h]

@[simp] theorem State.fbRead_rbWrite (s : State) (i a : Nat) (v : Word) : (s.rbWrite i v).fbRead a = s.fbRead a := rfl
@[simp] theorem State.fbRead_finish (s : State) (a : Nat) (e : Err) (r : Word) : (s.finish e r).fbRead a = s.fbRead a := rfl
@[simp] theorem State.fbRead_fail (s : State) (a : Nat) (e : Err) : (s.fail e).fbRead a = s.fbRead a := rfl
@[simp] theorem State.fbRead_setDevid (s : State) (a : Nat) (v : Byte) : (s.setDevid v).fbRead a = s.fbRead a := rfl
@[simp] theorem State.fbRead_setLastreq (s : State) (a : Nat) (v : Byte) : (s.setLastreq v).fbRead a = s.fbRead a := rfl
@[simp] theorem State.fbRead_setTriple (s : State) (a : Nat) (v : Byte) (b q : Word) : (s.setTriple v b q).fbRead a = s.fbRead a := rfl
@[simp] theorem State.rbRead_fbWrite (s : State) (a i : Nat) (v : Byte) : (s.fbWrite a v).rbRead i = s.rbRead i := rfl
@[simp] theorem State.rbRead_finish (s : State) (i : Nat) (e : Err) (r : Word) : (s.finish e r).rbRead i = s.rbRead i := rfl
@[simp] theorem State.rbRead_fail (s : State) (i : Nat) (e : Err) : (s.fail e).rbRead i = s.rbRead i := rfl
@[simp] theorem State.rbRead_setDevid (s : State) (i : Nat) (v : Byte) : (s.setDevid v).rbRead i = s.rbRead i := rfl
@[simp] theorem State.rbRead_setLastreq (s : State) (i : Nat) (v : Byte) : (s.setLastreq v).rbRead i = s.rbRead i := rfl
@[simp] theorem State.rbRead_setTriple (s : State) (i : Nat) (v : Byte) (b q : Word) : (s.setTriple v b q).rbRead i = s.rbRead i := rfl

@[simp] theorem State.fbBytes_length (s : State) (n : Nat) : (s.fbBytes n).length = n := by simp [State.fbBytes]
@[simp] theorem State.rbWords_length (s : State) (n : Nat) : (s.rbWords n).length = n := by simp [State.rbWords]

theorem State.fbBytes_succ (s : State) (n : Nat) : s.fbBytes (n + 1) = s.fbBytes n ++ [s.fbRead n] := by
  simp [State.fbBytes, List.range_succ]

theorem State.rbWords_succ (s : State) (n : Nat) : s.rbWords (n + 1) = s.rbWords n ++ [s.rbRead n] := by
  simp [State.rbWords, List.range_succ]

/-- A prefix of FB depends on the bytes in it alone. -/
theorem State.fbBytes_congr {s t : State} {n : Nat} (h : ∀ a, a < n → t.fbRead a = s.fbRead a) :
    t.fbBytes n = s.fbBytes n := by
  simp only [State.fbBytes, List.map_inj_left, List.mem_range]
  exact h

theorem State.be16_congr {s t : State} {a : Nat} (h₀ : t.fbRead a = s.fbRead a) (h₁ : t.fbRead (a + 1) = s.fbRead (a + 1)) :
    t.be16 a = s.be16 a := by simp [State.be16, h₀, h₁]

theorem State.le16_congr {s t : State} {a : Nat} (h₀ : t.fbRead a = s.fbRead a) (h₁ : t.fbRead (a + 1) = s.fbRead (a + 1)) :
    t.le16 a = s.le16 a := by simp [State.le16, h₀, h₁]

/-! ### Bytes of a word -/

@[simp] theorem hiByte_joinBytes (h l : Byte) : hiByte (joinBytes h l) = h := by
  apply BitVec.eq_of_getLsbD_eq
  intro i hi
  rw [hiByte, BitVec.getLsbD_extractLsb', joinBytes, BitVec.getLsbD_append]
  simp [hi]

@[simp] theorem loByte_joinBytes (h l : Byte) : loByte (joinBytes h l) = l := by
  apply BitVec.eq_of_getLsbD_eq
  intro i hi
  rw [loByte, BitVec.getLsbD_extractLsb', joinBytes, BitVec.getLsbD_append]
  simp [hi]

@[simp] theorem joinBytes_hiByte_loByte (w : Word) : joinBytes (hiByte w) (loByte w) = w := by
  apply BitVec.eq_of_getLsbD_eq
  intro i hi
  rw [joinBytes, BitVec.getLsbD_append]
  by_cases h : i < 8
  · simp [h, loByte]
  · simp only [h, hiByte, BitVec.getLsbD_extractLsb']
    simp [show i - 8 < 8 by omega, show 8 + (i - 8) = i by omega]

theorem joinBytes_inj {h l h' l' : Byte} : joinBytes h l = joinBytes h' l' ↔ h = h' ∧ l = l' := by
  constructor
  · intro e
    exact ⟨by simpa using congrArg hiByte e, by simpa using congrArg loByte e⟩
  · rintro ⟨rfl, rfl⟩; rfl

/-! ### The loops of the codecs: everything they can do -/

theorem State.fbRead_putBe16 (s : State) (a b : Nat) (v : Word) :
    (s.putBe16 a v).fbRead b = if b = a + 1 then loByte v else if b = a then hiByte v else s.fbRead b := by
  simp only [State.putBe16, State.fbRead_fbWrite]

theorem State.fbRead_putLe16 (s : State) (a b : Nat) (v : Word) :
    (s.putLe16 a v).fbRead b = if b = a + 1 then hiByte v else if b = a then loByte v else s.fbRead b := by
  simp only [State.putLe16, State.fbRead_fbWrite]

/-- `putBe16` and `putLe16` write nothing but FB. -/
theorem State.putBe16_eq (s : State) (a : Nat) (v : Word) :
    s.putBe16 a v = { s with fb := Memory.write (Memory.write s.fb a (hiByte v)) (a + 1) (loByte v) } := rfl

theorem State.putLe16_eq (s : State) (a : Nat) (v : Word) :
    s.putLe16 a v = { s with fb := Memory.write (Memory.write s.fb a (loByte v)) (a + 1) (hiByte v) } := rfl

/-- The encoding loop writes nothing but FB. -/
theorem State.putRegs_frame (s : State) (n : Nat) : s.putRegs n = { s with fb := (s.putRegs n).fb } := by
  induction n with
  | zero => rfl
  | succ k ih => simp only [State.putRegs, State.putBe16_eq]; rw [ih]

/-- What FB reads after the encoding loop: register `k` at `3 + 2k` and `4 + 2k`, elsewhere what it read before. -/
theorem State.fbRead_putRegs (s : State) (n b : Nat) :
    (s.putRegs n).fbRead b =
      if 3 ≤ b ∧ b < 3 + 2 * n then
        (if (b - 3) % 2 = 0 then hiByte (s.rbRead ((b - 3) / 2)) else loByte (s.rbRead ((b - 3) / 2)))
      else s.fbRead b := by
  induction n with
  | zero => rw [State.putRegs, if_neg (by omega)]
  | succ k ih =>
    have hr : ∀ i, (s.putRegs k).rbRead i = s.rbRead i := by
      intro i; rw [State.putRegs_frame s k]; rfl
    simp only [State.putRegs, State.fbRead_putBe16, ih, hr, Config.rspHdrLen]
    by_cases h₁ : b = 3 + 2 * k + 1
    · rw [if_pos h₁, if_pos (by omega), if_neg (by omega), show (b - 3) / 2 = k by omega]
    · by_cases h₂ : b = 3 + 2 * k
      · rw [if_neg h₁, if_pos h₂, if_pos (by omega), if_pos (by omega), show (b - 3) / 2 = k by omega]
      · simp only [h₁, h₂, if_false, show (3 ≤ b ∧ b < 3 + 2 * (k + 1)) ↔ (3 ≤ b ∧ b < 3 + 2 * k) by omega]

/-- The decoding loop writes nothing but RB. -/
theorem State.takeRegs_frame (s : State) (n : Nat) : s.takeRegs n = { s with rb := (s.takeRegs n).rb } := by
  induction n with
  | zero => rfl
  | succ k ih => simp only [State.takeRegs, State.rbWrite]; rw [ih]

/-- What RB reads after the decoding loop: registers 0 to `n - 1` of the frame, elsewhere what it read before. -/
theorem State.rbRead_takeRegs (s : State) (n i : Nat) :
    (s.takeRegs n).rbRead i = if i < n then s.be16 (3 + 2 * i) else s.rbRead i := by
  induction n with
  | zero => simp [State.takeRegs]
  | succ k ih =>
    have hb : ∀ a, (s.takeRegs k).be16 a = s.be16 a := by
      intro a; rw [State.takeRegs_frame s k]; rfl
    simp only [State.takeRegs, State.rbRead_rbWrite, ih, hb, Config.rspHdrLen]
    by_cases h : i = k
    · simp [h]
    · simp only [h, if_false, show i < k + 1 ↔ i < k by omega]

/-! ### Every buffer operation keeps the canonical form -/

theorem State.fbWrite_wf {s : State} (h : Memory.wf Config.fbufSize s.fb) {a : Nat} (ha : a < Config.fbufSize) (v : Byte) :
    Memory.wf Config.fbufSize (s.fbWrite a v).fb := Memory.wf_write h ha v

theorem State.rbWrite_wf {s : State} (h : Memory.wf Config.rbufSize s.rb) {i : Nat} (hi : i < Config.rbufSize) (v : Word) :
    Memory.wf Config.rbufSize (s.rbWrite i v).rb := Memory.wf_write h hi v

theorem State.putBe16_wf {s : State} (h : Memory.wf Config.fbufSize s.fb) {a : Nat} (ha : a + 1 < Config.fbufSize) (v : Word) :
    Memory.wf Config.fbufSize (s.putBe16 a v).fb :=
  State.fbWrite_wf (State.fbWrite_wf h (by omega) _) ha _

theorem State.putLe16_wf {s : State} (h : Memory.wf Config.fbufSize s.fb) {a : Nat} (ha : a + 1 < Config.fbufSize) (v : Word) :
    Memory.wf Config.fbufSize (s.putLe16 a v).fb :=
  State.fbWrite_wf (State.fbWrite_wf h (by omega) _) ha _

theorem State.putRegs_wf {s : State} (h : Memory.wf Config.fbufSize s.fb) {n : Nat} (hn : n ≤ Config.rbufSize) :
    Memory.wf Config.fbufSize (s.putRegs n).fb := by
  induction n with
  | zero => exact h
  | succ k ih =>
    simp only [Config.rbufSize] at hn ih
    exact State.putBe16_wf (ih (by omega)) (by simp only [Config.rspHdrLen, Config.fbufSize]; omega) _

theorem State.takeRegs_wf {s : State} (h : Memory.wf Config.rbufSize s.rb) {n : Nat} (hn : n ≤ Config.rbufSize) :
    Memory.wf Config.rbufSize (s.takeRegs n).rb := by
  induction n with
  | zero => exact h
  | succ k ih => exact State.rbWrite_wf (ih (by omega)) (by omega) _

end Sys2Proof.Machine
end

