-- ==== Sys2Proof/Laws/Fields.lean ====
section
/-! SUPPORT. The fields of State after the composite buffer operations: each touches one buffer and no other field. -/

namespace Sys2Proof.Machine

/-! ### `putBe16` -/

@[simp] theorem State.putBe16_sid (s : State) (a : Nat) (v : Word) : (s.putBe16 a v).sid = s.sid := rfl
@[simp] theorem State.putBe16_addr (s : State) (a : Nat) (v : Word) : (s.putBe16 a v).addr = s.addr := rfl
@[simp] theorem State.putBe16_qty (s : State) (a : Nat) (v : Word) : (s.putBe16 a v).qty = s.qty := rfl
@[simp] theorem State.putBe16_len (s : State) (a : Nat) (v : Word) : (s.putBe16 a v).len = s.len := rfl
@[simp] theorem State.putBe16_ocap (s : State) (a : Nat) (v : Word) : (s.putBe16 a v).ocap = s.ocap := rfl
@[simp] theorem State.putBe16_bc (s : State) (a : Nat) (v : Word) : (s.putBe16 a v).bc = s.bc := rfl
@[simp] theorem State.putBe16_status (s : State) (a : Nat) (v : Word) : (s.putBe16 a v).status = s.status := rfl
@[simp] theorem State.putBe16_result (s : State) (a : Nat) (v : Word) : (s.putBe16 a v).result = s.result := rfl
@[simp] theorem State.putBe16_oSid (s : State) (a : Nat) (v : Word) : (s.putBe16 a v).oSid = s.oSid := rfl
@[simp] theorem State.putBe16_oAddr (s : State) (a : Nat) (v : Word) : (s.putBe16 a v).oAddr = s.oAddr := rfl
@[simp] theorem State.putBe16_oQty (s : State) (a : Nat) (v : Word) : (s.putBe16 a v).oQty = s.oQty := rfl
@[simp] theorem State.putBe16_devid (s : State) (a : Nat) (v : Word) : (s.putBe16 a v).devid = s.devid := rfl
@[simp] theorem State.putBe16_lastreq (s : State) (a : Nat) (v : Word) : (s.putBe16 a v).lastreq = s.lastreq := rfl
@[simp] theorem State.putBe16_rb (s : State) (a : Nat) (v : Word) : (s.putBe16 a v).rb = s.rb := rfl
@[simp] theorem State.putBe16_inputs (s : State) (a : Nat) (v : Word) : (s.putBe16 a v).inputs = s.inputs := rfl
@[simp] theorem State.putBe16_replies (s : State) (a : Nat) (v : Word) : (s.putBe16 a v).replies = s.replies := rfl
@[simp] theorem State.putBe16_epoch (s : State) (a : Nat) (v : Word) : (s.putBe16 a v).epoch = s.epoch := rfl

/-! ### `putLe16` -/

@[simp] theorem State.putLe16_sid (s : State) (a : Nat) (v : Word) : (s.putLe16 a v).sid = s.sid := rfl
@[simp] theorem State.putLe16_addr (s : State) (a : Nat) (v : Word) : (s.putLe16 a v).addr = s.addr := rfl
@[simp] theorem State.putLe16_qty (s : State) (a : Nat) (v : Word) : (s.putLe16 a v).qty = s.qty := rfl
@[simp] theorem State.putLe16_len (s : State) (a : Nat) (v : Word) : (s.putLe16 a v).len = s.len := rfl
@[simp] theorem State.putLe16_ocap (s : State) (a : Nat) (v : Word) : (s.putLe16 a v).ocap = s.ocap := rfl
@[simp] theorem State.putLe16_bc (s : State) (a : Nat) (v : Word) : (s.putLe16 a v).bc = s.bc := rfl
@[simp] theorem State.putLe16_status (s : State) (a : Nat) (v : Word) : (s.putLe16 a v).status = s.status := rfl
@[simp] theorem State.putLe16_result (s : State) (a : Nat) (v : Word) : (s.putLe16 a v).result = s.result := rfl
@[simp] theorem State.putLe16_oSid (s : State) (a : Nat) (v : Word) : (s.putLe16 a v).oSid = s.oSid := rfl
@[simp] theorem State.putLe16_oAddr (s : State) (a : Nat) (v : Word) : (s.putLe16 a v).oAddr = s.oAddr := rfl
@[simp] theorem State.putLe16_oQty (s : State) (a : Nat) (v : Word) : (s.putLe16 a v).oQty = s.oQty := rfl
@[simp] theorem State.putLe16_devid (s : State) (a : Nat) (v : Word) : (s.putLe16 a v).devid = s.devid := rfl
@[simp] theorem State.putLe16_lastreq (s : State) (a : Nat) (v : Word) : (s.putLe16 a v).lastreq = s.lastreq := rfl
@[simp] theorem State.putLe16_rb (s : State) (a : Nat) (v : Word) : (s.putLe16 a v).rb = s.rb := rfl
@[simp] theorem State.putLe16_inputs (s : State) (a : Nat) (v : Word) : (s.putLe16 a v).inputs = s.inputs := rfl
@[simp] theorem State.putLe16_replies (s : State) (a : Nat) (v : Word) : (s.putLe16 a v).replies = s.replies := rfl
@[simp] theorem State.putLe16_epoch (s : State) (a : Nat) (v : Word) : (s.putLe16 a v).epoch = s.epoch := rfl

/-! ### `appendCrc` -/

@[simp] theorem State.appendCrc_sid (s : State) (n : Nat) : (s.appendCrc n).sid = s.sid := rfl
@[simp] theorem State.appendCrc_addr (s : State) (n : Nat) : (s.appendCrc n).addr = s.addr := rfl
@[simp] theorem State.appendCrc_qty (s : State) (n : Nat) : (s.appendCrc n).qty = s.qty := rfl
@[simp] theorem State.appendCrc_len (s : State) (n : Nat) : (s.appendCrc n).len = s.len := rfl
@[simp] theorem State.appendCrc_ocap (s : State) (n : Nat) : (s.appendCrc n).ocap = s.ocap := rfl
@[simp] theorem State.appendCrc_bc (s : State) (n : Nat) : (s.appendCrc n).bc = s.bc := rfl
@[simp] theorem State.appendCrc_status (s : State) (n : Nat) : (s.appendCrc n).status = s.status := rfl
@[simp] theorem State.appendCrc_result (s : State) (n : Nat) : (s.appendCrc n).result = s.result := rfl
@[simp] theorem State.appendCrc_oSid (s : State) (n : Nat) : (s.appendCrc n).oSid = s.oSid := rfl
@[simp] theorem State.appendCrc_oAddr (s : State) (n : Nat) : (s.appendCrc n).oAddr = s.oAddr := rfl
@[simp] theorem State.appendCrc_oQty (s : State) (n : Nat) : (s.appendCrc n).oQty = s.oQty := rfl
@[simp] theorem State.appendCrc_devid (s : State) (n : Nat) : (s.appendCrc n).devid = s.devid := rfl
@[simp] theorem State.appendCrc_lastreq (s : State) (n : Nat) : (s.appendCrc n).lastreq = s.lastreq := rfl
@[simp] theorem State.appendCrc_rb (s : State) (n : Nat) : (s.appendCrc n).rb = s.rb := rfl
@[simp] theorem State.appendCrc_inputs (s : State) (n : Nat) : (s.appendCrc n).inputs = s.inputs := rfl
@[simp] theorem State.appendCrc_replies (s : State) (n : Nat) : (s.appendCrc n).replies = s.replies := rfl
@[simp] theorem State.appendCrc_epoch (s : State) (n : Nat) : (s.appendCrc n).epoch = s.epoch := rfl

/-! ### `putRegs` -/

@[simp] theorem State.putRegs_sid (s : State) (n : Nat) : (s.putRegs n).sid = s.sid := by rw [State.putRegs_frame]
@[simp] theorem State.putRegs_addr (s : State) (n : Nat) : (s.putRegs n).addr = s.addr := by rw [State.putRegs_frame]
@[simp] theorem State.putRegs_qty (s : State) (n : Nat) : (s.putRegs n).qty = s.qty := by rw [State.putRegs_frame]
@[simp] theorem State.putRegs_len (s : State) (n : Nat) : (s.putRegs n).len = s.len := by rw [State.putRegs_frame]
@[simp] theorem State.putRegs_ocap (s : State) (n : Nat) : (s.putRegs n).ocap = s.ocap := by rw [State.putRegs_frame]
@[simp] theorem State.putRegs_bc (s : State) (n : Nat) : (s.putRegs n).bc = s.bc := by rw [State.putRegs_frame]
@[simp] theorem State.putRegs_status (s : State) (n : Nat) : (s.putRegs n).status = s.status := by rw [State.putRegs_frame]
@[simp] theorem State.putRegs_result (s : State) (n : Nat) : (s.putRegs n).result = s.result := by rw [State.putRegs_frame]
@[simp] theorem State.putRegs_oSid (s : State) (n : Nat) : (s.putRegs n).oSid = s.oSid := by rw [State.putRegs_frame]
@[simp] theorem State.putRegs_oAddr (s : State) (n : Nat) : (s.putRegs n).oAddr = s.oAddr := by rw [State.putRegs_frame]
@[simp] theorem State.putRegs_oQty (s : State) (n : Nat) : (s.putRegs n).oQty = s.oQty := by rw [State.putRegs_frame]
@[simp] theorem State.putRegs_devid (s : State) (n : Nat) : (s.putRegs n).devid = s.devid := by rw [State.putRegs_frame]
@[simp] theorem State.putRegs_lastreq (s : State) (n : Nat) : (s.putRegs n).lastreq = s.lastreq := by rw [State.putRegs_frame]
@[simp] theorem State.putRegs_rb (s : State) (n : Nat) : (s.putRegs n).rb = s.rb := by rw [State.putRegs_frame]
@[simp] theorem State.putRegs_inputs (s : State) (n : Nat) : (s.putRegs n).inputs = s.inputs := by rw [State.putRegs_frame]
@[simp] theorem State.putRegs_replies (s : State) (n : Nat) : (s.putRegs n).replies = s.replies := by rw [State.putRegs_frame]
@[simp] theorem State.putRegs_epoch (s : State) (n : Nat) : (s.putRegs n).epoch = s.epoch := by rw [State.putRegs_frame]

/-! ### `takeRegs` -/

@[simp] theorem State.takeRegs_sid (s : State) (n : Nat) : (s.takeRegs n).sid = s.sid := by rw [State.takeRegs_frame]
@[simp] theorem State.takeRegs_addr (s : State) (n : Nat) : (s.takeRegs n).addr = s.addr := by rw [State.takeRegs_frame]
@[simp] theorem State.takeRegs_qty (s : State) (n : Nat) : (s.takeRegs n).qty = s.qty := by rw [State.takeRegs_frame]
@[simp] theorem State.takeRegs_len (s : State) (n : Nat) : (s.takeRegs n).len = s.len := by rw [State.takeRegs_frame]
@[simp] theorem State.takeRegs_ocap (s : State) (n : Nat) : (s.takeRegs n).ocap = s.ocap := by rw [State.takeRegs_frame]
@[simp] theorem State.takeRegs_bc (s : State) (n : Nat) : (s.takeRegs n).bc = s.bc := by rw [State.takeRegs_frame]
@[simp] theorem State.takeRegs_status (s : State) (n : Nat) : (s.takeRegs n).status = s.status := by rw [State.takeRegs_frame]
@[simp] theorem State.takeRegs_result (s : State) (n : Nat) : (s.takeRegs n).result = s.result := by rw [State.takeRegs_frame]
@[simp] theorem State.takeRegs_oSid (s : State) (n : Nat) : (s.takeRegs n).oSid = s.oSid := by rw [State.takeRegs_frame]
@[simp] theorem State.takeRegs_oAddr (s : State) (n : Nat) : (s.takeRegs n).oAddr = s.oAddr := by rw [State.takeRegs_frame]
@[simp] theorem State.takeRegs_oQty (s : State) (n : Nat) : (s.takeRegs n).oQty = s.oQty := by rw [State.takeRegs_frame]
@[simp] theorem State.takeRegs_devid (s : State) (n : Nat) : (s.takeRegs n).devid = s.devid := by rw [State.takeRegs_frame]
@[simp] theorem State.takeRegs_lastreq (s : State) (n : Nat) : (s.takeRegs n).lastreq = s.lastreq := by rw [State.takeRegs_frame]
@[simp] theorem State.takeRegs_fb (s : State) (n : Nat) : (s.takeRegs n).fb = s.fb := by rw [State.takeRegs_frame]
@[simp] theorem State.takeRegs_inputs (s : State) (n : Nat) : (s.takeRegs n).inputs = s.inputs := by rw [State.takeRegs_frame]
@[simp] theorem State.takeRegs_replies (s : State) (n : Nat) : (s.takeRegs n).replies = s.replies := by rw [State.takeRegs_frame]
@[simp] theorem State.takeRegs_epoch (s : State) (n : Nat) : (s.takeRegs n).epoch = s.epoch := by rw [State.takeRegs_frame]

/-! ### `putReqHeader` -/

@[simp] theorem putReqHeader_sid (s : State) : (putReqHeader s).sid = s.sid := by simp [putReqHeader]
@[simp] theorem putReqHeader_addr (s : State) : (putReqHeader s).addr = s.addr := by simp [putReqHeader]
@[simp] theorem putReqHeader_qty (s : State) : (putReqHeader s).qty = s.qty := by simp [putReqHeader]
@[simp] theorem putReqHeader_len (s : State) : (putReqHeader s).len = s.len := by simp [putReqHeader]
@[simp] theorem putReqHeader_ocap (s : State) : (putReqHeader s).ocap = s.ocap := by simp [putReqHeader]
@[simp] theorem putReqHeader_bc (s : State) : (putReqHeader s).bc = s.bc := by simp [putReqHeader]
@[simp] theorem putReqHeader_status (s : State) : (putReqHeader s).status = s.status := by simp [putReqHeader]
@[simp] theorem putReqHeader_result (s : State) : (putReqHeader s).result = s.result := by simp [putReqHeader]
@[simp] theorem putReqHeader_oSid (s : State) : (putReqHeader s).oSid = s.oSid := by simp [putReqHeader]
@[simp] theorem putReqHeader_oAddr (s : State) : (putReqHeader s).oAddr = s.oAddr := by simp [putReqHeader]
@[simp] theorem putReqHeader_oQty (s : State) : (putReqHeader s).oQty = s.oQty := by simp [putReqHeader]
@[simp] theorem putReqHeader_devid (s : State) : (putReqHeader s).devid = s.devid := by simp [putReqHeader]
@[simp] theorem putReqHeader_lastreq (s : State) : (putReqHeader s).lastreq = s.lastreq := by simp [putReqHeader]
@[simp] theorem putReqHeader_rb (s : State) : (putReqHeader s).rb = s.rb := by simp [putReqHeader]
@[simp] theorem putReqHeader_inputs (s : State) : (putReqHeader s).inputs = s.inputs := by simp [putReqHeader]
@[simp] theorem putReqHeader_replies (s : State) : (putReqHeader s).replies = s.replies := by simp [putReqHeader]
@[simp] theorem putReqHeader_epoch (s : State) : (putReqHeader s).epoch = s.epoch := by simp [putReqHeader]

/-! ### `putRspHeader` -/

@[simp] theorem putRspHeader_sid (s : State) : (putRspHeader s).sid = s.sid := by simp [putRspHeader]
@[simp] theorem putRspHeader_addr (s : State) : (putRspHeader s).addr = s.addr := by simp [putRspHeader]
@[simp] theorem putRspHeader_qty (s : State) : (putRspHeader s).qty = s.qty := by simp [putRspHeader]
@[simp] theorem putRspHeader_len (s : State) : (putRspHeader s).len = s.len := by simp [putRspHeader]
@[simp] theorem putRspHeader_ocap (s : State) : (putRspHeader s).ocap = s.ocap := by simp [putRspHeader]
@[simp] theorem putRspHeader_bc (s : State) : (putRspHeader s).bc = s.bc := by simp [putRspHeader]
@[simp] theorem putRspHeader_status (s : State) : (putRspHeader s).status = s.status := by simp [putRspHeader]
@[simp] theorem putRspHeader_result (s : State) : (putRspHeader s).result = s.result := by simp [putRspHeader]
@[simp] theorem putRspHeader_oSid (s : State) : (putRspHeader s).oSid = s.oSid := by simp [putRspHeader]
@[simp] theorem putRspHeader_oAddr (s : State) : (putRspHeader s).oAddr = s.oAddr := by simp [putRspHeader]
@[simp] theorem putRspHeader_oQty (s : State) : (putRspHeader s).oQty = s.oQty := by simp [putRspHeader]
@[simp] theorem putRspHeader_devid (s : State) : (putRspHeader s).devid = s.devid := by simp [putRspHeader]
@[simp] theorem putRspHeader_lastreq (s : State) : (putRspHeader s).lastreq = s.lastreq := by simp [putRspHeader]
@[simp] theorem putRspHeader_rb (s : State) : (putRspHeader s).rb = s.rb := by simp [putRspHeader]
@[simp] theorem putRspHeader_inputs (s : State) : (putRspHeader s).inputs = s.inputs := by simp [putRspHeader]
@[simp] theorem putRspHeader_replies (s : State) : (putRspHeader s).replies = s.replies := by simp [putRspHeader]
@[simp] theorem putRspHeader_epoch (s : State) : (putRspHeader s).epoch = s.epoch := by simp [putRspHeader]

/-! ### Reads of the other buffer -/

@[simp] theorem State.rbRead_putBe16 (s : State) (a i : Nat) (v : Word) : (s.putBe16 a v).rbRead i = s.rbRead i := rfl
@[simp] theorem State.rbRead_putLe16 (s : State) (a i : Nat) (v : Word) : (s.putLe16 a v).rbRead i = s.rbRead i := rfl
@[simp] theorem State.rbRead_appendCrc (s : State) (n i : Nat) : (s.appendCrc n).rbRead i = s.rbRead i := rfl
@[simp] theorem State.rbRead_putRegs (s : State) (n i : Nat) : (s.putRegs n).rbRead i = s.rbRead i := by simp [State.rbRead]
@[simp] theorem State.fbRead_takeRegs (s : State) (n a : Nat) : (s.takeRegs n).fbRead a = s.fbRead a := by simp [State.fbRead]
@[simp] theorem rbRead_putReqHeader (s : State) (i : Nat) : (putReqHeader s).rbRead i = s.rbRead i := by simp [putReqHeader]
@[simp] theorem rbRead_putRspHeader (s : State) (i : Nat) : (putRspHeader s).rbRead i = s.rbRead i := by simp [putRspHeader]

end Sys2Proof.Machine
end

