-- ==== Sys2Proof/Laws/Commands.lean ====
section
/-! SUPPORT. One lemma per shared operation of the commands, saying everything it can do: the end of a command, the checks, the next input. Proofs cite these and do not unfold the operations. -/

namespace Sys2Proof.Machine

/-! ### The end of a command -/

@[simp] theorem State.conclude_ok (s : State) (eff : State → State) : s.conclude .ok eff = eff s := rfl

theorem State.conclude_error (s : State) {e : Err} (h : e ≠ .ok) (eff : State → State) :
    s.conclude e eff = s.fail e := by simp [State.conclude, h]

/-- A command ends in its effect, every check passed, or in its first failing check. -/
theorem State.conclude_cases (s : State) (e : Err) (eff : State → State) :
    (e = .ok ∧ s.conclude e eff = eff s) ∨ (e ≠ .ok ∧ s.conclude e eff = s.fail e) := by
  by_cases h : e = .ok
  · exact .inl ⟨h, by simp [h]⟩
  · exact .inr ⟨h, State.conclude_error s h eff⟩

theorem State.fail_eq (s : State) (e : Err) : s.fail e = { s with status := e, result := 0 } := rfl

theorem State.finish_eq (s : State) (e : Err) (r : Word) : s.finish e r = { s with status := e, result := r } := rfl

theorem State.illegal_eq (s : State) : s.illegal = { s with status := .illegalCommand, result := 0 } := rfl

theorem State.deliver_eq (s : State) (b : Bool) : s.deliver b = { s with status := .ok, result := boolWord b } := rfl

/-! ### The predicates as propositions -/

theorem validQuantity_iff (q : Word) : validQuantity q = true ↔ 1 ≤ q.toNat ∧ q.toNat ≤ 125 := by
  simp only [validQuantity, decide_eq_true_eq, Config.maxQty]

theorem validByteCount_iff (b : Byte) : validByteCount b = true ↔ 2 ≤ b.toNat ∧ b.toNat ≤ 250 := by
  simp only [validByteCount, decide_eq_true_eq, Config.minBc, Config.maxBc]

theorem validSlaveId_iff (v : Byte) : validSlaveId v = true ↔ v.toNat ≤ 247 := by
  simp only [validSlaveId, decide_eq_true_eq, Config.maxSid]

theorem validAddressRange_iff (a q : Word) : validAddressRange a q = true ↔ a.toNat + q.toNat ≤ 0x10000 := by
  simp only [validAddressRange, decide_eq_true_eq]
  omega

theorem crcMatches_iff (s : State) (n : Nat) : crcMatches s n = true ↔ crc16 (s.fbBytes n) = s.le16 n := by
  simp [crcMatches]

theorem reqFieldsValid_iff (s : State) :
    reqFieldsValid s = true ↔
      (1 ≤ (s.be16 4).toNat ∧ (s.be16 4).toNat ≤ 125) ∧ (s.fbRead 0).toNat ≤ 247 ∧
        (s.be16 2).toNat + (s.be16 4).toNat ≤ 0x10000 := by
  simp [reqFieldsValid, Bool.and_eq_true, validQuantity_iff, validSlaveId_iff, validAddressRange_iff, and_assoc]

/-! ### When each command's checks pass -/

theorem crc16Check_cases (fbv : Bool) (s : State) :
    (crc16Check fbv s = .ok ∧ (fbv = false ∨ s.len = 0 ∨ s.len.toNat ≤ 256)) ∨
      (crc16Check fbv s = .illegalCommand ∧ fbv = true ∧ s.len ≠ 0 ∧ 256 < s.len.toNat) := by
  unfold crc16Check
  simp only [Config.fbufSize]
  split_ifs with h₁ h₂
  · exact .inl ⟨rfl, h₁.imp_right .inl⟩
  · simp only [not_or, Bool.not_eq_false] at h₁; exact .inr ⟨rfl, h₁.1, h₁.2, h₂⟩
  · exact .inl ⟨rfl, .inr (.inr (by omega))⟩

theorem encReqCheck_cases (fbv : Bool) (s : State) :
    encReqCheck fbv s = .ok ∨ encReqCheck fbv s = .encodeFail := by
  unfold encReqCheck
  split_ifs <;> simp

theorem encReqCheck_ok_iff (fbv : Bool) (s : State) :
    encReqCheck fbv s = .ok ↔ fbv = true ∧ 6 ≤ s.len.toNat ∧ (1 ≤ s.qty.toNat ∧ s.qty.toNat ≤ 125) ∧ s.sid.toNat ≤ 247 ∧
      s.addr.toNat + s.qty.toNat ≤ 0x10000 := by
  rw [← validQuantity_iff, ← validSlaveId_iff, ← validAddressRange_iff]
  unfold encReqCheck
  simp only [Config.reqCapMin]
  split_ifs <;> simp_all

theorem encRspCheck_cases (fbv rbv : Bool) (s : State) :
    encRspCheck fbv rbv s = .ok ∨ encRspCheck fbv rbv s = .encodeFail := by
  unfold encRspCheck
  split_ifs <;> simp

theorem encRspCheck_ok_iff (fbv rbv : Bool) (s : State) :
    encRspCheck fbv rbv s = .ok ↔ fbv = true ∧ rbv = true ∧ (1 ≤ s.qty.toNat ∧ s.qty.toNat ≤ 125) ∧ s.sid.toNat ≤ 247 ∧
      5 + 2 * s.qty.toNat ≤ s.len.toNat := by
  rw [← validQuantity_iff, ← validSlaveId_iff,
    show 5 + 2 * s.qty.toNat ≤ s.len.toNat ↔ ¬ s.len.toNat < Config.rspHdrLen + 2 * s.qty.toNat + Config.crcLen by
      simp only [Config.rspHdrLen, Config.crcLen]; omega]
  unfold encRspCheck
  cases fbv <;> cases rbv <;> simp only [reduceCtorEq, false_and, true_and, or_false, or_true, if_true, if_false]
  split_ifs <;> simp_all

theorem setIdCheck_cases (s : State) :
    (setIdCheck s = .ok ∧ 1 ≤ s.sid.toNat ∧ s.sid.toNat ≤ 247) ∨
      (setIdCheck s = .invalidArgument ∧ (s.sid.toNat = 0 ∨ 248 ≤ s.sid.toNat)) := by
  have h0 : s.sid = Config.broadcastId ↔ s.sid.toNat = 0 := by
    simp [Config.broadcastId, BitVec.toNat_eq]
  have hv : validSlaveId s.sid = false ↔ 248 ≤ s.sid.toNat := by
    rw [← Bool.not_eq_true, validSlaveId_iff]; omega
  unfold setIdCheck
  split_ifs with h
  · exact .inr ⟨rfl, h.symm.imp h0.mp hv.mp⟩
  · rw [not_or, h0, hv] at h
    exact .inl ⟨rfl, by omega, by omega⟩

theorem decReqCheck_ok_iff (fbv : Bool) (s : State) :
    decReqCheck fbv s = .ok ↔ fbv = true ∧ 8 ≤ s.len.toNat ∧ reqFieldsValid s = true ∧
      (s.fbRead 0 = s.devid ∨ s.fbRead 0 = 0) ∧ s.fbRead 1 = 3 ∧ crc16 (s.fbBytes 6) = s.le16 6 := by
  rw [← crcMatches_iff]
  unfold decReqCheck
  simp only [Config.reqHdrLen, Config.crcLen, Config.broadcastId, Config.fcReadHolding]
  split_ifs <;> simp_all
  tauto

theorem decRspCheck_ok_iff (fbv rbv : Bool) (s : State) :
    decRspCheck fbv rbv s = .ok ↔ fbv = true ∧ rbv = true ∧ s.fbRead 0 = s.lastreq ∧ s.fbRead 1 = 3 ∧
      (2 ≤ (s.fbRead 2).toNat ∧ (s.fbRead 2).toNat ≤ 250) ∧ (s.fbRead 2).toNat + 5 ≤ s.len.toNat ∧
      (s.fbRead 2).toNat / 2 ≤ s.ocap.toNat ∧
      crc16 (s.fbBytes (3 + (s.fbRead 2).toNat)) = s.le16 (3 + (s.fbRead 2).toNat) := by
  rw [← crcMatches_iff, ← validByteCount_iff,
    show (s.fbRead 2).toNat + 5 ≤ s.len.toNat ↔ ¬ s.len.toNat < Config.rspHdrLen + (s.fbRead 2).toNat + Config.crcLen by
      simp only [Config.rspHdrLen, Config.crcLen]; omega,
    ← not_lt (a := s.ocap.toNat)]
  unfold decRspCheck rspRegCount rspByteCount
  cases fbv <;> cases rbv <;> simp only [reduceCtorEq, false_and, true_and, or_false, or_true, if_true, if_false]
  split_ifs <;> simp_all

/-! ### The effects of the codec commands: which fields they write, and every cell of the buffer they write -/

theorem encReqEffect_eq (s : State) :
    encReqEffect s = { s with fb := (encReqEffect s).fb, lastreq := s.sid, status := .ok, result := 8 } := by
  ext : 1 <;> simp [encReqEffect]

theorem encRspEffect_eq (s : State) :
    encRspEffect s =
      { s with fb := (encRspEffect s).fb, status := .ok, result := BitVec.ofNat 16 (5 + 2 * s.qty.toNat) } := by
  ext : 1 <;> simp [encRspEffect]

theorem decRspEffect_eq (s : State) :
    decRspEffect s = { s with rb := (decRspEffect s).rb, status := .ok, result := BitVec.ofNat 16 (rspRegCount s) } := by
  ext : 1 <;> simp [decRspEffect]

theorem decReqEffect_eq (s : State) :
    decReqEffect s =
      { s with oSid := s.fbRead 0, oAddr := s.be16 2, oQty := s.be16 4, status := .ok, result := 0 } := rfl

theorem State.fbRead_appendCrc (s : State) (n a : Nat) :
    (s.appendCrc n).fbRead a =
      if a = n + 1 then hiByte (crc16 (s.fbBytes n)) else if a = n then loByte (crc16 (s.fbBytes n)) else s.fbRead a :=
  State.fbRead_putLe16 s n a _

/-- The six header bytes of a request, each at its address (R74). -/
theorem putReqHeader_fbBytes (s : State) : (putReqHeader s).fbBytes 6 = reqHeader s.sid s.addr s.qty := by
  simp [State.fbBytes, List.range_succ, putReqHeader, State.fbRead_putBe16, State.fbRead_fbWrite, reqHeader]

theorem putReqHeader_fbRead_of_ge (s : State) {a : Nat} (h : 6 ≤ a) : (putReqHeader s).fbRead a = s.fbRead a := by
  simp only [putReqHeader, State.fbRead_putBe16, State.fbRead_fbWrite]
  rw [if_neg (by omega), if_neg (by omega), if_neg (by omega), if_neg (by omega), if_neg (by omega), if_neg (by omega)]

theorem putRspHeader_fbRead (s : State) (a : Nat) :
    (putRspHeader s).fbRead a =
      if a = 2 then BitVec.ofNat 8 (2 * s.qty.toNat) else if a = 1 then 0x03 else if a = 0 then s.sid else s.fbRead a := by
  simp only [putRspHeader, State.fbRead_fbWrite]

/-- A prefix of FB read byte by byte. -/
theorem State.fbBytes_getElem? (s : State) (n k : Nat) : (s.fbBytes n)[k]? = if k < n then some (s.fbRead k) else none := by
  by_cases h : k < n
  · simp [State.fbBytes, h]
  · simp [State.fbBytes, h]

/-- The payload of a response byte by byte (R75). -/
theorem regBytes_getElem? (regs : List Word) (k : Nat) :
    (regBytes regs)[k]? = (regs[k / 2]?).map fun w => if k % 2 = 0 then hiByte w else loByte w := by
  induction regs generalizing k with
  | nil => simp [regBytes]
  | cons w t ih =>
    match k with
    | 0 => simp [regBytes]
    | 1 => simp [regBytes]
    | k + 2 =>
      have := ih k
      simp only [regBytes, List.flatMap_cons, List.cons_append, List.nil_append, List.getElem?_cons_succ] at this ⊢
      rw [this, show (k + 2) / 2 = k / 2 + 1 by omega, show (k + 2) % 2 = k % 2 by omega, List.getElem?_cons_succ]

@[simp] theorem regBytes_length (regs : List Word) : (regBytes regs).length = 2 * regs.length := by
  induction regs with
  | nil => rfl
  | cons w t ih => simp only [regBytes, List.flatMap_cons, List.length_append, List.length_cons, List.length_nil] at ih ⊢; omega

/-! ### The next input -/

theorem fetch_idle {s : State} (h : s.inputs = []) : fetch s = .settled (.next s) := by simp [fetch, h]

theorem fetch_reset {s : State} {rest : List Input} (h : s.inputs = .reset :: rest) :
    fetch s = .settled (.next ({ s with inputs := rest }).takeReset) := by simp [fetch, h]

theorem fetch_host {s : State} {m : HostMove} {rest : List Input} (h : s.inputs = .host m :: rest) :
    fetch s = hostMove m { s with inputs := rest } := by simp [fetch, h]

/-- What a host move comes to when its precondition holds: a command, a register write, a buffer write, or a reply. -/
theorem hostMove_cases {m : HostMove} (h : m.wf = true) (s : State) :
    (∃ w, m = .regWrite 0 w ∧ hostMove m s = .command w s) ∨
      (∃ i v, m = .regWrite i v ∧ i ≠ 0 ∧ hostMove m s = .settled (.next (s.writeIndex i v))) ∨
      (∃ a v, m = .fbWrite a v ∧ a < Config.fbufSize ∧ hostMove m s = .settled (.next (s.fbWrite a v))) ∨
      (∃ i v, m = .rbWrite i v ∧ i < Config.rbufSize ∧ hostMove m s = .settled (.next (s.rbWrite i v))) ∨
      (∃ r, hostMove m s = .settled (.next (s.reply r))) := by
  cases m with
  | regWrite i v =>
    simp only [HostMove.wf, decide_eq_true_eq] at h
    by_cases h0 : i = 0
    · subst h0; exact .inl ⟨v, rfl, by simp [hostMove, h]⟩
    · exact .inr (.inl ⟨i, v, rfl, h0, by simp [hostMove, h, h0]⟩)
  | regRead i =>
    simp only [HostMove.wf, decide_eq_true_eq] at h
    exact .inr (.inr (.inr (.inr ⟨_, by simp only [hostMove, if_pos h]; rfl⟩)))
  | fbWrite a v =>
    simp only [HostMove.wf, decide_eq_true_eq] at h
    exact .inr (.inr (.inl ⟨a, v, rfl, h, by simp only [hostMove, if_pos h]⟩))
  | fbRead a =>
    simp only [HostMove.wf, decide_eq_true_eq] at h
    exact .inr (.inr (.inr (.inr ⟨_, by simp only [hostMove, if_pos h]; rfl⟩)))
  | rbWrite i v =>
    simp only [HostMove.wf, decide_eq_true_eq] at h
    exact .inr (.inr (.inr (.inl ⟨i, v, rfl, h, by simp only [hostMove, if_pos h]⟩)))
  | rbRead i =>
    simp only [HostMove.wf, decide_eq_true_eq] at h
    exact .inr (.inr (.inr (.inr ⟨_, by simp only [hostMove, if_pos h]; rfl⟩)))

/-- A step that settles its input answers what the input comes to. -/
theorem step_of_settled {s : State} {o : Host.Outcome State Fault Refusal} (h : fetch s = .settled o) : step s = o := by
  simp [step, h]

/-- A step that meets a command word runs the command. -/
theorem step_of_command {s t : State} {w : Word} (h : fetch s = .command w t) : step s = exec (decode w) t := by
  simp [step, h]

end Sys2Proof.Machine
end

