-- ==== Sys2Proof/Laws/Crc.lean ====
section
/-! SUPPORT. The CRC steps over exclusive or: the bit step is linear, and only 0 goes to 0 (40_crc_engine.md R100, R105). -/

namespace Sys2Proof.Machine

/-- The bit step is linear over exclusive or. -/
theorem crcBit_xor (x y : Word) : crcBit (x ^^^ y) = crcBit x ^^^ crcBit y := by
  unfold crcBit
  rw [BitVec.getLsbD_xor]
  have hs : (x ^^^ y) >>> 1 = x >>> 1 ^^^ y >>> 1 := by
    apply BitVec.eq_of_getLsbD_eq; intro i hi; simp
  cases x.getLsbD 0 <;> cases y.getLsbD 0 <;> simp only [hs, Bool.xor_false, Bool.xor_true, Bool.not_false, Bool.not_true, if_true, if_false, Bool.false_eq_true]
  · rw [BitVec.xor_assoc]
  · rw [BitVec.xor_assoc, BitVec.xor_assoc, BitVec.xor_comm (y >>> 1)]
  · apply BitVec.eq_of_getLsbD_eq; intro i hi; simp only [BitVec.getLsbD_xor]
    cases (x >>> 1).getLsbD i <;> cases (y >>> 1).getLsbD i <;> cases (Config.crcPoly).getLsbD i <;> rfl

/-- So are any number of bit steps. -/
theorem crcBits_xor (n : Nat) (x y : Word) : crcBits n (x ^^^ y) = crcBits n x ^^^ crcBits n y := by
  induction n generalizing x y with
  | zero => rfl
  | succ k ih => simp only [crcBits, crcBit_xor, ih]

/-- Only 0 steps to 0. -/
theorem crcBit_eq_zero {x : Word} (h : crcBit x = 0) : x = 0 := by
  have hb : ∀ i, (crcBit x).getLsbD i = false := by rw [h]; simp
  unfold crcBit at hb
  cases h0 : x.getLsbD 0 with
  | true =>
    have := hb 15
    rw [h0, if_pos rfl, BitVec.getLsbD_xor] at this
    simp [Config.crcPoly] at this
  | false =>
    rw [h0] at hb
    apply BitVec.eq_of_getLsbD_eq
    intro i hi
    cases i with
    | zero => simpa using h0
    | succ k =>
      have := hb k
      simpa [Nat.add_comm] using this

end Sys2Proof.Machine
end

