-- ==== Sys2Proof/Laws/Decode.lean ====
section
/-! SUPPORT. The command word bit by bit: its fields, the words the encoder assembles, the bits a command uses (30_encoding.md R70, R71, R73). -/

namespace Sys2Proof

theorem wordOp_toNat (w : Word) : (wordOp w).toNat = (w &&& 0x000F).toNat := by
  rw [BitVec.toNat_and, wordOp, BitVec.extractLsb'_toNat]
  simpa using (Nat.and_two_pow_sub_one_eq_mod w.toNat 4).symm

theorem wordOp_getLsbD (w : Word) {i : Nat} (h : i < 4) : (wordOp w).getLsbD i = w.getLsbD i := by
  simp only [wordOp, BitVec.getLsbD_extractLsb', h, decide_true, Bool.true_and, Nat.zero_add]

theorem assembleWord_getLsbD (r f : Bool) (op : BitVec 4) (i : Nat) :
    (assembleWord r f op).getLsbD i = if i < 4 then op.getLsbD i else if i = 8 then f else if i = 9 then r else false := by
  unfold assembleWord
  simp only [BitVec.getLsbD_append, BitVec.getLsbD_ofBool]
  by_cases h : i < 16
  · interval_cases i <;> simp
  · rw [if_neg (by omega), if_neg (by omega), if_neg (by omega)]
    simp
    omega


theorem commandOf_op {k : Nat} (h : k < 16) (f r : Bool) : (commandOf k f r).op = BitVec.ofNat 4 k := by
  interval_cases k <;> rfl

theorem usedMask_getLsbD (i : Instr) (k : Nat) :
    i.usedMask.getLsbD k =
      if k < 4 then true else if k = 8 then i.usedMask.getLsbD 8 else if k = 9 then i.usedMask.getLsbD 9 else false := by
  by_cases h : k < 16
  · cases i <;> simp only [Instr.usedMask] <;> revert k <;> decide
  · rw [BitVec.getLsbD_of_ge _ _ (by omega), if_neg (by omega), if_neg (by omega), if_neg (by omega)]

theorem commandOf_fbvBit (k : Nat) (f r : Bool) :
    (commandOf k f r).fbvBit = ((commandOf k f r).usedMask.getLsbD 8 && f) := by
  unfold commandOf; split <;> simp [Instr.fbvBit, Instr.usedMask]

theorem commandOf_rbvBit (k : Nat) (f r : Bool) :
    (commandOf k f r).rbvBit = ((commandOf k f r).usedMask.getLsbD 9 && r) := by
  unfold commandOf; split <;> simp [Instr.rbvBit, Instr.usedMask]

end Sys2Proof
end

