-- ==== Sys2Proof/Laws/Effects.lean ====
section
/-! SUPPORT. The effects of the codec commands: every cell of FB they leave, the canonical form they keep, and that what they do does not depend on the earlier outcome or on the hidden bytes. -/

namespace Sys2Proof.Machine

/-! ### The lengths of the frames (R77) -/

theorem reqFrame_length (v : Byte) (a q : Word) : (reqFrame v a q).length = Config.reqFrameLen := rfl

theorem rspFrame_length (v : Byte) (regs : List Word) : (rspFrame v regs).length = Config.rspFrameLen regs.length := by
  simp [rspFrame, withCrc, rspBody, Config.rspFrameLen]
  omega

/-! ### Every cell of FB after an encoder -/

/-- After `ENC_REQ`: the request frame in the first 8 bytes, every other byte as before (R74, R120). -/
theorem encReqEffect_read (s : State) (a : Nat) :
  (encReqEffect s).fbRead a = if a < 8 then (reqFrame s.sid s.addr s.qty).getD a 0 else s.fbRead a := by
  simp only [encReqEffect, State.fbRead_finish, State.fbRead_setLastreq, State.fbRead_appendCrc, Config.reqHdrLen, putReqHeader_fbBytes]
  by_cases h : a < 6
  · have h1 : (putReqHeader s).fbRead a = ((putReqHeader s).fbBytes 6).getD a 0 := by
      rw [List.getD_eq_getElem?_getD, State.fbBytes_getElem?, if_pos h]; rfl
    rw [if_neg (by omega), if_neg (by omega), if_pos (by omega), h1, putReqHeader_fbBytes]
    interval_cases a <;> rfl
  · by_cases h7 : a = 7
    · subst h7; rfl
    · by_cases h6 : a = 6
      · subst h6; rfl
      · rw [if_neg h7, if_neg h6, if_neg (by omega), putReqHeader_fbRead_of_ge s (by omega)]

/-- After `ENC_RSP`: the response frame in the first `5 + 2 * QTY` bytes, every other byte as before (R75, R155). -/
theorem encRspEffect_read (s : State) (hq : s.qty.toNat ≤ 125) (a : Nat) :
  (encRspEffect s).fbRead a = if a < 5 + 2 * s.qty.toNat then (rspFrame s.sid (s.rbWords s.qty.toNat)).getD a 0 else s.fbRead a := by
  set q := s.qty.toNat with hqd
  set t := (putRspHeader s).putRegs q with ht
  have hb : t.fbBytes (3 + 2 * q) = rspBody s.sid (s.rbWords q) := by
    apply List.ext_getElem?
    intro k
    rw [State.fbBytes_getElem?, rspBody, List.getElem?_append]
    simp only [List.length_cons, List.length_nil, Nat.zero_add, Nat.reduceAdd]
    by_cases h3 : k < 3
    · rw [if_pos (show k < 3 + 2 * q by omega), if_pos h3, ht, State.fbRead_putRegs, if_neg (by omega), putRspHeader_fbRead]
      interval_cases k <;> simp [← hqd]
    · rw [if_neg h3, regBytes_getElem?]
      by_cases hk : k < 3 + 2 * q
      · rw [if_pos hk, ht, State.fbRead_putRegs, if_pos ⟨by omega, hk⟩]
        simp only [rbRead_putRspHeader]
        have : (s.rbWords q)[(k - 3) / 2]? = some (s.rbRead ((k-3)/2)) := by simp [State.rbWords, show (k-3)/2 < q by omega]
        rw [this]; rfl
      · rw [if_neg hk]
        have : (s.rbWords q)[(k - 3) / 2]? = none := by simp [State.rbWords]; omega
        rw [this]; rfl
  have e : (encRspEffect s).fbRead a = (t.appendCrc (3 + 2 * q)).fbRead a := rfl
  have hlen : (rspBody s.sid (s.rbWords q)).length = 3 + 2 * q := by rw [← hb]; simp
  rw [e, State.fbRead_appendCrc, hb, rspFrame, withCrc, List.getD_eq_getElem?_getD, List.getElem?_append, hlen]
  by_cases h : a < 3 + 2 * q
  · rw [if_neg (by omega), if_neg (by omega), if_pos (by omega), if_pos h, ← hb, State.fbBytes_getElem?, if_pos h]; rfl
  · rw [if_neg h]
    by_cases h4 : a = 3 + 2 * q + 1
    · rw [if_pos h4, if_pos (by omega), show a - (3 + 2*q) = 1 by omega]; rfl
    · by_cases h5 : a = 3 + 2 * q
      · rw [if_neg h4, if_pos h5, if_pos (by omega), show a - (3 + 2*q) = 0 by omega]; rfl
      · rw [if_neg h4, if_neg h5, if_neg (by omega), ht, State.fbRead_putRegs, if_neg (by omega), putRspHeader_fbRead, if_neg (by omega), if_neg (by omega), if_neg (by omega)]

/-! ### The canonical form -/

theorem encReqEffect_wf (s : State) (h : Memory.wf Config.fbufSize s.fb) : Memory.wf Config.fbufSize (encReqEffect s).fb := by
  have hh : Memory.wf Config.fbufSize (putReqHeader s).fb := by
    refine State.putBe16_wf (State.putBe16_wf (State.fbWrite_wf (State.fbWrite_wf h ?_ _) ?_ _) ?_ _) ?_ _ <;> simp only [Config.fbufSize] <;> omega
  have h2 : Memory.wf Config.fbufSize ((putReqHeader s).appendCrc Config.reqHdrLen).fb := by
    refine State.putLe16_wf hh ?_ _; simp only [Config.fbufSize, Config.reqHdrLen]; omega
  simpa [encReqEffect] using h2

theorem encRspEffect_wf (s : State) (h : Memory.wf Config.fbufSize s.fb) (hq : s.qty.toNat ≤ 125) : Memory.wf Config.fbufSize (encRspEffect s).fb := by
  have hh : Memory.wf Config.fbufSize (putRspHeader s).fb := by
    refine State.fbWrite_wf (State.fbWrite_wf (State.fbWrite_wf h ?_ _) ?_ _) ?_ _ <;> simp only [Config.fbufSize] <;> omega
  have h1 := State.putRegs_wf hh hq
  have h2 : Memory.wf Config.fbufSize (((putRspHeader s).putRegs s.qty.toNat).appendCrc (Config.rspHdrLen + 2 * s.qty.toNat)).fb := by
    refine State.putLe16_wf h1 ?_ _; simp only [Config.fbufSize, Config.rspHdrLen]; omega
  simpa [encRspEffect] using h2

/-! ### The earlier outcome and the hidden bytes -/

theorem putRegs_upd (s : State) (e r d l) (n : Nat) : ({ s with status := e, result := r, devid := d, lastreq := l } : State).putRegs n = { s.putRegs n with status := e, result := r, devid := d, lastreq := l } := by
  induction n with
  | zero => rfl
  | succ k ih => simp only [State.putRegs]; rw [ih]; rfl

theorem takeRegs_upd (s : State) (e r d l) (n : Nat) : ({ s with status := e, result := r, devid := d, lastreq := l } : State).takeRegs n = { s.takeRegs n with status := e, result := r, devid := d, lastreq := l } := by
  induction n with
  | zero => rfl
  | succ k ih => simp only [State.takeRegs]; rw [ih]; rfl

theorem encReqEffect_upd (s : State) (e r d l) : encReqEffect { s with status := e, result := r, devid := d, lastreq := l } = { encReqEffect s with devid := d } := by
  have h : putReqHeader { s with status := e, result := r, devid := d, lastreq := l } = { putReqHeader s with status := e, result := r, devid := d, lastreq := l } := rfl
  have h2 : ∀ (u : State) n, State.appendCrc { u with status := e, result := r, devid := d, lastreq := l } n = { u.appendCrc n with status := e, result := r, devid := d, lastreq := l } := fun _ _ => rfl
  unfold encReqEffect
  rw [h, h2]; rfl

theorem encRspEffect_upd (s : State) (e r d l) : encRspEffect { s with status := e, result := r, devid := d, lastreq := l } = { encRspEffect s with devid := d, lastreq := l } := by
  have h : putRspHeader { s with status := e, result := r, devid := d, lastreq := l } = { putRspHeader s with status := e, result := r, devid := d, lastreq := l } := rfl
  unfold encRspEffect
  rw [h, putRegs_upd]; rfl

theorem decRspEffect_upd (s : State) (e r d l) : decRspEffect { s with status := e, result := r, devid := d, lastreq := l } = { decRspEffect s with devid := d, lastreq := l } := by
  unfold decRspEffect
  rw [show rspRegCount { s with status := e, result := r, devid := d, lastreq := l } = rspRegCount s from rfl, takeRegs_upd]; rfl

end Sys2Proof.Machine
end

