-- ==== Sys2Proof/Laws/PerInstr.lean ====
section
/-! SUPPORT. The per-instruction family CommandWord: the word of every command carries its opcode, and its ignored bits are 0 (30_encoding.md R70, R71, R73). -/

namespace Sys2Proof.Laws.CommandWord

/-- The word of `i` has `OP` in bits [3:0], its flags in bits 8 and 9, and nothing else. -/
def Statement (i : Instr) : Prop :=
  i.wf = true ∧ wordOp (encode i) = i.op ∧ wordFbv (encode i) = i.fbvBit ∧ wordRbv (encode i) = i.rbvBit ∧
    encode i &&& 0xFCF0 = 0

theorem illegal0 : Statement .illegal0 := by unfold Statement; decide
theorem crc16 (fbv : Bool) : Statement (.crc16 fbv) := by unfold Statement; revert fbv; decide
theorem validQty : Statement .validQty := by unfold Statement; decide
theorem validBc : Statement .validBc := by unfold Statement; decide
theorem validSid : Statement .validSid := by unfold Statement; decide
theorem validAddr : Statement .validAddr := by unfold Statement; decide
theorem encReq (fbv : Bool) : Statement (.encReq fbv) := by unfold Statement; revert fbv; decide
theorem decRsp (fbv rbv : Bool) : Statement (.decRsp fbv rbv) := by unfold Statement; revert fbv rbv; decide
theorem setId : Statement .setId := by unfold Statement; decide
theorem decReq (fbv : Bool) : Statement (.decReq fbv) := by unfold Statement; revert fbv; decide
theorem encRsp (fbv rbv : Bool) : Statement (.encRsp fbv rbv) := by unfold Statement; revert fbv rbv; decide
theorem illegalB : Statement .illegalB := by unfold Statement; decide
theorem illegalC : Statement .illegalC := by unfold Statement; decide
theorem illegalD : Statement .illegalD := by unfold Statement; decide
theorem illegalE : Statement .illegalE := by unfold Statement; decide
theorem illegalF : Statement .illegalF := by unfold Statement; decide

end Sys2Proof.Laws.CommandWord
end

