-- ==== Sys2Proof/Machine/HostProgram.lean ====
section
/-! DEFINITION. Host programs: the one-move line forms and their encoding (30_encoding.md R81), the pseudo-instructions with their expansions, and running a source-level call (R82). A pointer argument of a call is an `Option`, or a `Bool` where the call only writes through it: none or false is the null pointer, which leaves out the command's flag. -/

namespace Sys2Proof.Machine

/-- The three address spaces (R50). -/
inductive Space where
  | reg | fb | rb
  deriving DecidableEq, Repr

/-- `wr <REG name>, <value>` (R81). -/
def wr (r : RegName) (v : Word) : HostMove := .regWrite r.index v

/-- `rd <REG name>` (R81). -/
def rd (r : RegName) : HostMove := .regRead r.index

/-- `fbw <addr>, <byte>` (R81). -/
def fbw (a : Nat) (v : Byte) : HostMove := .fbWrite a v

/-- `fbr <addr>` (R81). -/
def fbr (a : Nat) : HostMove := .fbRead a

/-- `rbw <index>, <word>` (R81). -/
def rbw (i : Nat) (v : Word) : HostMove := .rbWrite i v

/-- `rbr <index>` (R81). -/
def rbr (i : Nat) : HostMove := .rbRead i

/-- A line's encoding: space, address or index, and the data, absent for a read (R81). -/
def HostMove.encoding (m : HostMove) : Space × Nat × Option Word :=
  match m with
  | .regWrite i v => (.reg, i, some v)
  | .regRead i => (.reg, i, none)
  | .fbWrite a v => (.fb, a, some (v.zeroExtend 16))
  | .fbRead a => (.fb, a, none)
  | .rbWrite i v => (.rb, i, some v)
  | .rbRead i => (.rb, i, none)

/-- The flag `FBV` as written in a command line (R81). -/
def fbvFlag : Word := 0x0100

/-- The flag `RBV` as written in a command line (R81). -/
def rbvFlag : Word := 0x0200

/-- `fbload b0 b1 ...` from address `a` on; the pseudo-instruction starts at 0 (R82). -/
def fbloadFrom (a : Nat) (bs : List Byte) : List HostMove :=
  match bs with
  | [] => []
  | b :: t => fbw a b :: fbloadFrom (a + 1) t

/-- `fbload b0 b1 ... b(k-1)` (R82). -/
def fbload (bs : List Byte) : List HostMove := fbloadFrom 0 bs

/-- `rbload w0 w1 ...` from index `i` on; the pseudo-instruction starts at 0 (R82). -/
def rbloadFrom (i : Nat) (ws : List Word) : List HostMove :=
  match ws with
  | [] => []
  | w :: t => rbw i w :: rbloadFrom (i + 1) t

/-- `rbload w0 w1 ... w(k-1)` (R82). -/
def rbload (ws : List Word) : List HostMove := rbloadFrom 0 ws

/-- `fbdump k` (R82). -/
def fbdump (k : Nat) : List HostMove := (List.range k).map fbr

/-- `rbdump k` (R82). -/
def rbdump (k : Nat) : List HostMove := (List.range k).map rbr

/-- A command line `wr CMD, <word>`: the mnemonic of the command with its flags (R81). -/
def cmdLine (i : Instr) : HostMove := wr .cmd (encode i)

/-- `fbload` of a pointer argument: of a null pointer there is nothing to load (R82; log 12). -/
def fbloadArg (buf : Option (List Byte)) : List HostMove :=
  match buf with
  | some bs => fbload bs
  | none => []

/-- `rbload` of a pointer argument: of a null pointer there is nothing to load (R82; log 12). -/
def rbloadArg (regs : Option (List Word)) : List HostMove :=
  match regs with
  | some ws => rbload ws
  | none => []

/-- What the host dumps at the end of a call, of the length or count it has read from `RESULT` (R82). -/
inductive Closing where
  | nothing | fbdump | rbdump
  deriving DecidableEq, Repr

/-- A source-level call: its fixed moves and the dump that closes it (R82). -/
structure HostCall where
  /-- The moves up to the last `rd`; before a dump that is `rd RESULT`. -/
  moves : List HostMove
  /-- The dump after them. -/
  closing : Closing
  deriving DecidableEq, Repr

/-- The moves of a closing dump, for the value read from `RESULT` (R82). -/
def Closing.moves (c : Closing) (r : Word) : List HostMove :=
  match c with
  | .nothing => []
  | .fbdump => Sys2Proof.Machine.fbdump r.toNat
  | .rbdump => Sys2Proof.Machine.rbdump r.toNat

/-- The call `crc16(buf, n)` (R82). -/
def callCrc16 (buf : Option (List Byte)) (n : Word) : HostCall where
  moves := fbloadArg buf ++ [wr .len n, cmdLine (.crc16 buf.isSome), rd .result]
  closing := .nothing

/-- The call `encode_read_request(s, a, q, out)` with capacity `cap` (R82). -/
def callEncodeReadRequest (v : Byte) (a q : Word) (out : Bool) (cap : Word) : HostCall where
  moves := [wr .sid (v.zeroExtend 16), wr .addr a, wr .qty q, wr .len cap, cmdLine (.encReq out), rd .result]
  closing := .fbdump

/-- The call `decode_read_response(buf, n, out, ocap)` (R82). -/
def callDecodeReadResponse (buf : Option (List Byte)) (n : Word) (out : Bool) (ocap : Word) : HostCall where
  moves := fbloadArg buf ++ [wr .len n, wr .ocap ocap, cmdLine (.decRsp buf.isSome out), rd .status, rd .result]
  closing := .rbdump

/-- The call `set_device_slave_id(i)` (R82). -/
def callSetDeviceSlaveId (v : Byte) : HostCall where
  moves := [wr .sid (v.zeroExtend 16), cmdLine .setId, rd .status]
  closing := .nothing

/-- The call `decode_read_request(buf, n, ...)` (R82). -/
def callDecodeReadRequest (buf : Option (List Byte)) (n : Word) : HostCall where
  moves := fbloadArg buf ++
    [wr .len n, cmdLine (.decReq buf.isSome), rd .status, rd .oSid, rd .oAddr, rd .oQty]
  closing := .nothing

/-- The call `encode_read_response(s, regs, q, out)` with capacity `cap` (R82). -/
def callEncodeReadResponse (v : Byte) (regs : Option (List Word)) (q : Word) (out : Bool) (cap : Word) : HostCall where
  moves := rbloadArg regs ++
    [wr .sid (v.zeroExtend 16), wr .qty q, wr .len cap, cmdLine (.encRsp out regs.isSome), rd .result]
  closing := .fbdump

/-- A host program as the inputs of a state: the moves in order, before what was to come (R10). -/
def State.withProgram (s : State) (p : List HostMove) : State := { s with inputs := p.map .host ++ s.inputs }

/-- Run a host program: its moves, one step each, before what was to come (R10). -/
def State.runMoves (s : State) (p : List HostMove) : Host.Outcome State Fault Refusal :=
  Sys2Proof.core.run p.length (s.withProgram p)

/-- The value of a reply as a word. -/
def Reply.value (r : Reply) : Word :=
  match r with
  | .word v => v
  | .byte v => v.zeroExtend 16

/-- The latest reply's value; 0 where there is none. Every call with a closing dump has just read `RESULT`. -/
def State.lastValue (s : State) : Word :=
  match s.replies.getLast? with
  | some r => r.value
  | none => 0

/-- Run a source-level call: its moves, then the dump of the length or count they returned (R82; log 12). -/
def State.runCall (s : State) (c : HostCall) : Host.Outcome State Fault Refusal :=
  match s.runMoves c.moves with
  | .next t => t.runMoves (c.closing.moves t.lastValue)
  | .fault r => .fault r
  | .refused r => .refused r

end Sys2Proof.Machine
end

