-- ==== Sys2Proof/Laws/Steps.lean ====
section
/-! SUPPORT. All that a command can do and all that a step can do, said once (00_scope.md R8, 60_exceptions.md R170); claims over all commands cite these and unfold nothing. -/

namespace Sys2Proof.Machine

/-- What a command does, with its outcome: it fails with one of its codes, or delivers a value, or has its codec's effect. -/
theorem exec_cases (i : Instr) (s : State) : ∃ t, exec i s = .next t ∧
   ((∃ e, e ≠ .ok ∧ e ∈ outcomesOf i ∧ t = s.fail e) ∨
    (t.status = .ok ∧ .ok ∈ outcomesOf i ∧
      ((∃ r, t = s.finish .ok r ∧ (∀ f, i ≠ .encReq f) ∧ (∀ f r, i ≠ .encRsp f r)) ∨ (i = .setId ∧ t = (s.setDevid s.sid).finish .ok 0 ∧ 1 ≤ s.sid.toNat ∧ s.sid.toNat ≤ 247) ∨
       (∃ f, i = .encReq f ∧ encReqCheck f s = .ok ∧ t = encReqEffect s) ∨
       (∃ f r, i = .encRsp f r ∧ encRspCheck f r s = .ok ∧ t = encRspEffect s) ∨
       (∃ f r, i = .decRsp f r ∧ decRspCheck f r s = .ok ∧ t = decRspEffect s) ∨
       (∃ f, i = .decReq f ∧ decReqCheck f s = .ok ∧ t = decReqEffect s)))) := by
  cases i with
  | crc16 f =>
    refine ⟨_, rfl, ?_⟩
    rcases crc16Check_cases f s with ⟨h, _⟩ | ⟨h, _⟩ <;> rw [h]
    · exact .inr ⟨rfl, by simp [outcomesOf], .inl ⟨_, rfl, by simp, by simp⟩⟩
    · exact .inl ⟨_, by decide, by simp [outcomesOf], State.conclude_error _ (by decide) _⟩
  | validQty => exact ⟨_, rfl, .inr ⟨rfl, by simp [outcomesOf], .inl ⟨_, rfl, by simp, by simp⟩⟩⟩
  | validBc => exact ⟨_, rfl, .inr ⟨rfl, by simp [outcomesOf], .inl ⟨_, rfl, by simp, by simp⟩⟩⟩
  | validSid => exact ⟨_, rfl, .inr ⟨rfl, by simp [outcomesOf], .inl ⟨_, rfl, by simp, by simp⟩⟩⟩
  | validAddr => exact ⟨_, rfl, .inr ⟨rfl, by simp [outcomesOf], .inl ⟨_, rfl, by simp, by simp⟩⟩⟩
  | encReq f =>
    refine ⟨_, rfl, ?_⟩
    rcases encReqCheck_cases f s with h | h
    · rw [h]; exact .inr ⟨by rw [State.conclude_ok, encReqEffect_eq], by simp [outcomesOf], .inr (.inr (.inl ⟨_, rfl, h, rfl⟩))⟩
    · rw [h]; exact .inl ⟨_, by decide, by simp [outcomesOf], State.conclude_error _ (by decide) _⟩
  | encRsp f r =>
    refine ⟨_, rfl, ?_⟩
    rcases encRspCheck_cases f r s with h | h
    · rw [h]; exact .inr ⟨by rw [State.conclude_ok, encRspEffect_eq], by simp [outcomesOf], .inr (.inr (.inr (.inl ⟨_, _, rfl, h, rfl⟩)))⟩
    · rw [h]; exact .inl ⟨_, by decide, by simp [outcomesOf], State.conclude_error _ (by decide) _⟩
  | setId =>
    refine ⟨_, rfl, ?_⟩
    rcases setIdCheck_cases s with ⟨h, h'⟩ | ⟨h, h'⟩ <;> rw [h]
    · exact .inr ⟨rfl, by simp [outcomesOf], .inr (.inl ⟨rfl, rfl, h'⟩)⟩
    · exact .inl ⟨_, by decide, by simp [outcomesOf], State.conclude_error _ (by decide) _⟩
  | decReq f =>
    refine ⟨_, rfl, ?_⟩
    have hm : decReqCheck f s ∈ outcomesOf (.decReq f) := by unfold decReqCheck; split_ifs <;> simp [outcomesOf]
    rcases State.conclude_cases s (decReqCheck f s) decReqEffect with ⟨a, b⟩ | ⟨a, b⟩ <;> rw [b]
    · exact .inr ⟨rfl, by simp [outcomesOf], .inr (.inr (.inr (.inr (.inr ⟨_, rfl, a, rfl⟩))))⟩
    · exact .inl ⟨_, a, hm, rfl⟩
  | decRsp f r =>
    refine ⟨_, rfl, ?_⟩
    have hm : decRspCheck f r s ∈ outcomesOf (.decRsp f r) := by unfold decRspCheck; split_ifs <;> simp [outcomesOf]
    rcases State.conclude_cases s (decRspCheck f r s) decRspEffect with ⟨a, b⟩ | ⟨a, b⟩ <;> rw [b]
    · exact .inr ⟨by rw [decRspEffect_eq], by simp [outcomesOf], .inr (.inr (.inr (.inr (.inl ⟨_, _, rfl, a, rfl⟩))))⟩
    · exact .inl ⟨_, a, hm, rfl⟩
  | _ => exact ⟨_, rfl, .inl ⟨_, by decide, by simp [outcomesOf], rfl⟩⟩

/-- `exec_cases` for a known next state. -/
theorem exec_cases_of_next {i s t} (h : exec i s = .next t) :
   ((∃ e, e ≠ .ok ∧ e ∈ outcomesOf i ∧ t = s.fail e) ∨
    (t.status = .ok ∧ .ok ∈ outcomesOf i ∧
      ((∃ r, t = s.finish .ok r ∧ (∀ f, i ≠ .encReq f) ∧ (∀ f r, i ≠ .encRsp f r)) ∨ (i = .setId ∧ t = (s.setDevid s.sid).finish .ok 0 ∧ 1 ≤ s.sid.toNat ∧ s.sid.toNat ≤ 247) ∨
       (∃ f, i = .encReq f ∧ encReqCheck f s = .ok ∧ t = encReqEffect s) ∨
       (∃ f r, i = .encRsp f r ∧ encRspCheck f r s = .ok ∧ t = encRspEffect s) ∨
       (∃ f r, i = .decRsp f r ∧ decRspCheck f r s = .ok ∧ t = decRspEffect s) ∨
       (∃ f, i = .decReq f ∧ decReqCheck f s = .ok ∧ t = decReqEffect s)))) := by
  obtain ⟨u, hu, hc⟩ := exec_cases i s
  rw [h] at hu; cases hu; exact hc

/-- What a step does: nothing on an idle core, else it takes the first input, which was admitted. -/
theorem step_cases {s t} (h : step s = .next t) :
  (s.inputs = [] ∧ t = s) ∨ (∃ x rest, s.inputs = x :: rest ∧ x.wf = true ∧
     (x = .reset ∧ t = ({s with inputs := rest} : State).takeReset ∨
      (∃ w, x = .host (.regWrite 0 w) ∧ exec (decode w) {s with inputs := rest} = .next t) ∨
      (∃ i v, x = .host (.regWrite i v) ∧ i ≠ 0 ∧ t = ({s with inputs := rest} : State).writeIndex i v) ∨
      (∃ a v, x = .host (.fbWrite a v) ∧ a < Config.fbufSize ∧ t = ({s with inputs := rest} : State).fbWrite a v) ∨
      (∃ a v, x = .host (.rbWrite a v) ∧ a < Config.rbufSize ∧ t = ({s with inputs := rest} : State).rbWrite a v) ∨
      (∃ r, t = ({s with inputs := rest} : State).reply r))) := by
  cases hi : s.inputs with
  | nil => rw [step_of_settled (fetch_idle hi)] at h; cases h; exact .inl ⟨rfl, rfl⟩
  | cons x rest =>
    refine .inr ⟨x, rest, rfl, ?_⟩
    cases x with
    | reset => rw [step_of_settled (fetch_reset hi)] at h; cases h; exact ⟨rfl, .inl ⟨rfl, rfl⟩⟩
    | host m =>
      by_cases hw : m.wf = true
      · refine ⟨hw, .inr ?_⟩
        rcases hostMove_cases hw {s with inputs := rest} with ⟨w, rfl, hm⟩ | ⟨i, v, rfl, h0, hm⟩ | ⟨i, v, rfl, h0, hm⟩ | ⟨i, v, rfl, h0, hm⟩ | ⟨r, hm⟩ <;> rw [← fetch_host hi] at hm
        · rw [step_of_command hm] at h; exact .inl ⟨w, rfl, h⟩
        · rw [step_of_settled hm] at h; cases h; exact .inr (.inl ⟨_, _, rfl, h0, rfl⟩)
        · rw [step_of_settled hm] at h; cases h; exact .inr (.inr (.inl ⟨_, _, rfl, h0, rfl⟩))
        · rw [step_of_settled hm] at h; cases h; exact .inr (.inr (.inr (.inl ⟨_, _, rfl, h0, rfl⟩)))
        · rw [step_of_settled hm] at h; cases h; exact .inr (.inr (.inr (.inr ⟨_, rfl⟩)))
      · exfalso
        cases m <;> simp only [HostMove.wf, decide_eq_true_eq] at hw <;>
         (rw [step_of_settled (by rw [fetch_host hi]; simp only [hostMove]; rw [if_neg hw])] at h; cases h)

/-- A run of one step more. -/
theorem run_succ {n s t} (h : step s = .next t) : core.run (n+1) s = core.run n t := by
  simp only [Host.Core.run]
  rw [show core.step s = .next t from h]

/-! ### Host programs (R81, R82) -/

/-- The word of a command is its opcode with the names of its flags (R81). -/
theorem encode_eq_mnemonic_with_flags (i : Instr) :
    encode i = i.op.zeroExtend 16 ||| (if i.fbvBit then fbvFlag else 0) ||| (if i.rbvBit then rbvFlag else 0) := by
  cases i with
  | decRsp f r => revert f r; decide
  | encRsp f r => revert f r; decide
  | crc16 f => revert f; decide
  | encReq f => revert f; decide
  | decReq f => revert f; decide
  | _ => decide

@[simp] theorem State.withProgram_inputs (s : State) (p : List HostMove) :
    (s.withProgram p).inputs = p.map .host ++ s.inputs := rfl

@[simp] theorem State.runMoves_nil (s : State) : s.runMoves [] = .next s := rfl

/-- A program whose first move steps to a state that still has the rest to come goes on as the rest. -/
theorem State.runMoves_cons {s t : State} {m : HostMove} {p : List HostMove}
    (h : step (s.withProgram (m :: p)) = .next (t.withProgram p)) : s.runMoves (m :: p) = t.runMoves p :=
  run_succ h

/-- A call is its moves, then the dump of what the last of them read. -/
theorem State.runCall_of_moves {s t : State} {c : HostCall} (h : s.runMoves c.moves = .next t) :
    s.runCall c = t.runMoves (c.closing.moves t.lastValue) := by
  simp [State.runCall, h]

end Sys2Proof.Machine
end

