-- ==== Sys2Proof/Tests/Slice0.lean ====
section
/-! SUPPORT. The model's own tests. Expected values are the spec's: the vectors of 95_test_vectors.md (named in the comments), the words of 30_encoding.md R81, the tables. The second half shows, for every obligation with hypotheses, concrete inputs that meet them. -/

namespace Sys2Proof.Tests

open Sys2Proof.Machine

-- One theorem at a time: a thread each, all at once, asks for more memory than a build may allow.
set_option Elab.async false

/-! ### Helpers -/

/-- A whole frame buffer: the bytes given, then `EE`, the fill of the vectors. -/
def testFb (bs : List Byte) : FrameBuffer := (List.range 256).map fun a => (a, bs.getD a 0xEE)

/-- A whole register buffer: the words given, then `DEAD`, the fill of the vectors. -/
def testRb (ws : List Word) : RegBuffer := (List.range 125).map fun i => (i, ws.getD i 0xDEAD)

/-- The state after reset with known buffers. -/
def testState (bs : List Byte) (ws : List Word) : State := { State.reset with fb := testFb bs, rb := testRb ws }

/-- The next state of an outcome, where it has one. -/
def nextOf (o : Host.Outcome State Fault Refusal) : Option State :=
  match o with
  | .next t => some t
  | .fault _ => none
  | .refused _ => none

/-- The refusal of an outcome, where it is one. -/
def refusalOf (o : Host.Outcome State Fault Refusal) : Option Refusal :=
  match o with
  | .next _ => none
  | .fault _ => none
  | .refused r => some r

/-- `STATUS` and `RESULT` after the command of a word. -/
def outcomeOf (w : Word) (s : State) : Option (Err × Word) := (nextOf (exec (decode w) s)).map fun t => (t.status, t.result)

/-- The request and the response of S4. -/
def reqS4 : List Byte := [0x01, 0x03, 0x02, 0x58, 0x00, 0x02, 0x44, 0x60]
def rspS4 : List Byte := [0x01, 0x03, 0x04, 0x03, 0xE8, 0x13, 0x88, 0x77, 0x15]

/-- A master about to decode the response of S4 (V4.1). -/
def testRsp : State := { testState rspS4 [] with lastreq := 1, len := 9, ocap := 2 }

/-- A slave about to decode the request of S4 (V6.1). -/
def testReq : State := { testState reqS4 [] with devid := 1, len := 8, oSid := 0xAA, oAddr := 0xBBBB, oQty := 0xCCCC }

/-- A master about to encode the request of S4 (V3.1). -/
def testEncReq : State := { testState [] [] with sid := 1, addr := 0x0258, qty := 2, len := 8, lastreq := 0x55 }

/-- A slave about to encode the response of S4 (V7.1). -/
def testEncRsp : State := { testState [] [0x03E8, 0x1388] with sid := 1, qty := 2, len := 9 }

/-! ### Well-formedness: the check refuses each ill-formed term (R51) -/

theorem test_wf_refuses_reg_write_16 : HostMove.wf (.regWrite 16 0) = false := by decide
theorem test_wf_refuses_reg_read_16 : HostMove.wf (.regRead 16) = false := by decide
theorem test_wf_refuses_fb_write_256 : HostMove.wf (.fbWrite 256 0) = false := by decide
theorem test_wf_refuses_fb_read_256 : HostMove.wf (.fbRead 256) = false := by decide
theorem test_wf_refuses_rb_write_125 : HostMove.wf (.rbWrite 125 0) = false := by decide
theorem test_wf_refuses_rb_read_125 : HostMove.wf (.rbRead 125) = false := by decide
theorem test_wf_admits_the_last_cells :
    HostMove.wf (.regWrite 15 0) = true ∧ HostMove.wf (.fbWrite 255 0) = true ∧ HostMove.wf (.rbWrite 124 0) = true ∧
      Input.wf .reset = true := by decide
theorem test_memory_wf_refuses_a_missing_cell : ¬ Memory.wf 2 [(0, (0 : Byte))] := by decide
theorem test_memory_wf_refuses_disorder : ¬ Memory.wf 2 [(1, (0 : Byte)), (0, 0)] := by decide
theorem test_inv_of_test_state : (testState reqS4 []).Inv := ⟨by decide +kernel, by decide +kernel, by decide, by decide⟩

/-! ### Decoding: each word written out from the field table of R70, bit 15 first: reserved [15:10], RBV, FBV, reserved [7:4], OP -/

theorem test_decode_illegal0 : decode 0b000000_0_0_0000_0000 = .illegal0 := by decide
theorem test_decode_crc16 : decode 0b000000_0_1_0000_0001 = .crc16 true ∧ decode 0b000000_0_0_0000_0001 = .crc16 false := by decide
theorem test_decode_validQty : decode 0b000000_0_0_0000_0010 = .validQty := by decide
theorem test_decode_validBc : decode 0b000000_0_0_0000_0011 = .validBc := by decide
theorem test_decode_validSid : decode 0b000000_0_0_0000_0100 = .validSid := by decide
theorem test_decode_validAddr : decode 0b000000_0_0_0000_0101 = .validAddr := by decide
theorem test_decode_encReq : decode 0b000000_0_1_0000_0110 = .encReq true := by decide
theorem test_decode_decRsp : decode 0b000000_1_0_0000_0111 = .decRsp false true ∧ decode 0b000000_0_1_0000_0111 = .decRsp true false := by decide
theorem test_decode_setId : decode 0b000000_0_0_0000_1000 = .setId := by decide
theorem test_decode_decReq : decode 0b000000_0_1_0000_1001 = .decReq true := by decide
theorem test_decode_encRsp : decode 0b000000_1_0_0000_1010 = .encRsp false true ∧ decode 0b000000_0_1_0000_1010 = .encRsp true false := by decide
theorem test_decode_illegalB : decode 0b000000_0_0_0000_1011 = .illegalB := by decide
theorem test_decode_illegalC : decode 0b000000_0_0_0000_1100 = .illegalC := by decide
theorem test_decode_illegalD : decode 0b000000_0_0_0000_1101 = .illegalD := by decide
theorem test_decode_illegalE : decode 0b000000_0_0_0000_1110 = .illegalE := by decide
theorem test_decode_illegalF : decode 0b000000_0_0_0000_1111 = .illegalF := by decide
/-- V1.20, V1.21, V1.22, V9.3, V9.4: ignored bits are ignored. -/
theorem test_decode_ignored_bits :
    decode 0x0301 = .crc16 true ∧ decode 0xFCF1 = .crc16 false ∧ decode 0xFDF1 = .crc16 true ∧
      decode 0x0310 = .illegal0 ∧ decode 0xFC02 = .validQty := by decide
/-- R81: the command words as written there. -/
theorem test_encode_words :
    encode (.crc16 true) = 0x0101 ∧ encode (.encReq true) = 0x0106 ∧ encode (.decRsp true true) = 0x0307 ∧
      encode .setId = 0x0008 ∧ encode (.decReq true) = 0x0109 ∧ encode (.encRsp true true) = 0x030A := by decide
theorem test_decode_rejects_a_wider_value : decodeTableWord 32 65536 = none := by decide
theorem test_decode_table_word : decodeTableWord 16 0x0307 = some (.decRsp true true) := by decide

/-! ### Commands -/

/-- V1.7, the check value of the CRC. -/
theorem test_crc_check_value : crc16 [0x31, 0x32, 0x33, 0x34, 0x35, 0x36, 0x37, 0x38, 0x39] = 0x4B37 := by decide +kernel
/-- V1.16, V1.18, V1.14, V1.15. -/
theorem test_crc16_outcomes :
    outcomeOf 0x0101 { testState reqS4 [] with len := 6 } = some (.ok, 0x6044) ∧
      outcomeOf 0x0101 { testState reqS4 [] with len := 257 } = some (.illegalCommand, 0) ∧
      outcomeOf 0x0101 { testState reqS4 [] with len := 0 } = some (.ok, 0xFFFF) ∧
      outcomeOf 0x0001 { testState reqS4 [] with len := 6 } = some (.ok, 0xFFFF) := by decide +kernel
/-- V2.1 to V2.5. -/
theorem test_validQty :
    [0, 1, 125, 126, 256].map (fun q => outcomeOf 0x0002 { State.reset with qty := q }) =
      [0, 1, 1, 0, 0].map fun r => some (.ok, r) := by decide +kernel
/-- V2.7 to V2.13. -/
theorem test_validBc :
    [0, 1, 2, 3, 250, 251, 255].map (fun b => outcomeOf 0x0003 { State.reset with bc := b }) =
      [0, 0, 1, 1, 1, 0, 0].map fun r => some (.ok, r) := by decide +kernel
/-- V2.15 to V2.18. -/
theorem test_validSid :
    [0, 247, 248, 255].map (fun v => outcomeOf 0x0004 { State.reset with sid := v }) =
      [1, 1, 0, 0].map fun r => some (.ok, r) := by decide +kernel
/-- V2.19 to V2.27. -/
theorem test_validAddr :
    [(0xFFFF, 1), (0xFFFF, 2), (0xFF83, 125), (0xFF84, 125), (0, 0), (0xFFFF, 0), (1, 65535), (2, 65535), (0xFFFF, 0xFFFF)].map
        (fun (p : Word × Word) => outcomeOf 0x0005 { State.reset with addr := p.1, qty := p.2 }) =
      [1, 0, 1, 0, 1, 1, 1, 0, 0].map fun r => some (.ok, r) := by decide +kernel
/-- V3.1: the frame, the byte after it, `LASTREQ`. -/
theorem test_encReq_frame :
    (nextOf (exec (.encReq true) testEncReq)).map (fun t => (t.fbBytes 9, t.lastreq, t.status, t.result)) =
      some (reqS4 ++ [0xEE], 1, .ok, 8) := by decide +kernel
/-- V3.4 and V3.6: capacities 6 and 5. -/
theorem test_encReq_capacity :
    (nextOf (exec (.encReq true) { testEncReq with sid := 17, addr := 0x6B, qty := 3, len := 6 })).map (fun t => (t.fbBytes 9, t.status)) =
        some ([0x11, 0x03, 0x00, 0x6B, 0x00, 0x03, 0x76, 0x87, 0xEE], .ok) ∧
      nextOf (exec (.encReq true) { testEncReq with len := 5 }) = some { testEncReq with len := 5, status := .encodeFail } := by decide +kernel
/-- V4.1: the registers in order, the count, RB beyond them. -/
theorem test_decRsp_registers :
    (nextOf (exec (.decRsp true true) testRsp)).map (fun t => (t.rbWords 3, t.status, t.result)) =
      some ([0x03E8, 0x1388, 0xDEAD], .ok, 2) := by decide +kernel
/-- V4.19: an odd byte count, the last payload byte dropped. -/
theorem test_decRsp_odd_byte_count :
    (nextOf (exec (.decRsp true true)
        { testState [0x01, 0x03, 0x03, 0xAA, 0xBB, 0xCC, 0x17, 0x0B] [] with lastreq := 1, len := 8, ocap := 1 })).map
        (fun t => (t.rbWords 2, t.status, t.result)) = some ([0xAABB, 0xDEAD], .ok, 1) := by decide +kernel
/-- V5.1 to V5.5. -/
theorem test_setId :
    [0, 1, 247, 248, 255].map (fun v => (nextOf (exec .setId { State.reset with sid := v, devid := 17 })).map fun t => (t.devid, t.status)) =
      [(17, .invalidArgument), (1, .ok), (247, .ok), (17, .invalidArgument), (17, .invalidArgument)].map some := by decide +kernel
/-- V6.1: the triple. -/
theorem test_decReq_triple :
    (nextOf (exec (.decReq true) testReq)).map (fun t => (t.oSid, t.oAddr, t.oQty, t.status, t.result)) =
      some (1, 0x0258, 2, .ok, 0) := by decide +kernel
/-- V6.20 and V6.17: the order of the checks. -/
theorem test_decReq_order :
    outcomeOf 0x0109 { testState [0x07, 0x04, 0, 0, 0, 0, 0, 0] [] with devid := 1, len := 8 } = some (.invalidRange, 0) ∧
      outcomeOf 0x0109 { testState [0x01, 0x04, 0x02, 0x58, 0, 0x02, 0xF1, 0xA0] [] with devid := 2, len := 8 } =
        some (.identityMismatch, 0) := by decide +kernel
/-- V7.1: the frame and the byte after it. -/
theorem test_encRsp_frame :
    (nextOf (exec (.encRsp true true) testEncRsp)).map (fun t => (t.fbBytes 10, t.status, t.result)) =
      some (rspS4 ++ [0xEE], .ok, 9) := by decide +kernel
/-- V7.6: three registers, each high byte first. -/
theorem test_encRsp_three_registers :
    (nextOf (exec (.encRsp true true)
        { testState [] [0xAE41, 0x5652, 0x4340] with sid := 17, qty := 3, len := 11 })).map (fun t => (t.result, t.fbBytes 12)) =
      some (11, [0x11, 0x03, 0x06, 0xAE, 0x41, 0x56, 0x52, 0x43, 0x40, 0x49, 0xAD, 0xEE]) := by decide +kernel
/-- V9.1, V9.2: each reserved opcode. -/
theorem test_illegal :
    [0x0000, 0x000B, 0x000C, 0x000D, 0x000E, 0x000F].map (fun w => outcomeOf w { State.reset with result := 0x1234 }) =
      List.replicate 6 (some (.illegalCommand, 0)) := by decide +kernel

/-! ### The host's moves -/

/-- V9.5 to V9.9: an 8-bit register, read-only registers, `CMD` and a reserved index read as 0. -/
theorem test_register_access :
    (nextOf (core.run 9 (State.reset.withProgram
        [wr .sid 0x01F8, rd .sid, wr .status 0xFFFF, rd .status, wr .result 0x1234, rd .result, rd .cmd, .regWrite 12 0xFFFF, .regRead 12]))).map
        State.replies = some [.word 0x00F8, .word 0, .word 0, .word 0, .word 0] := by decide +kernel
/-- R190: a reset after a command; what the host was told stays. -/
theorem test_reset_input :
    (nextOf (step { testState [] [] with inputs := [.reset], devid := 17, result := 5 })).map
        (fun t => (t.devid, t.result, t.inputs, t.epoch)) = some (0, 0, [], 1) := by decide +kernel
/-- R51, U9: moves outside their space. -/
theorem test_moves_outside :
    [HostMove.regRead 16, .fbRead 256, .rbRead 125].map (fun m => refusalOf (step { State.reset with inputs := [.host m] })) =
      [.regIndexOutOfRange 16, .fbAddressOutOfRange 256, .rbIndexOutOfRange 125].map some := by decide +kernel
/-- A program's first command is the first step after reset (the word of `SET_ID`). -/
theorem test_fetch_word :
    (nextOf (step (State.reset.withFetchWord 16 0x0008))).map (fun t => (t.status, t.inputs)) = some (.invalidArgument, []) := by decide +kernel

/-! ### Source-level calls (R82; the replies of P1, P2 and of the vectors) -/

/-- P1, lines 1 to 8: `RESULT`, then the frame of that length. -/
theorem test_call_encodeReadRequest :
    (nextOf (State.reset.runCall (callEncodeReadRequest 1 0x0258 2 true 8))).map State.replies =
      some (.word 8 :: reqS4.map .byte) := by decide +kernel
/-- P1, lines 9 to 16: `STATUS`, `RESULT`, then as many registers. -/
theorem test_call_decodeReadResponse :
    (nextOf ({ State.reset with lastreq := 1 }.runCall (callDecodeReadResponse (some rspS4) 9 true 2))).map State.replies =
      some [.word 0, .word 2, .word 0x03E8, .word 0x1388] := by decide +kernel
/-- V7.1 as a call: `RESULT`, then the frame of that length. -/
theorem test_call_encodeReadResponse :
    (nextOf (State.reset.runCall (callEncodeReadResponse 1 (some [0x03E8, 0x1388]) 2 true 9))).map State.replies =
      some (.word 9 :: rspS4.map .byte) := by decide +kernel
/-- P2, lines 4 to 13, and V1.16 as a call. -/
theorem test_call_the_others :
    (nextOf (State.reset.runCall (callSetDeviceSlaveId 17))).map State.replies = some [.word 0] ∧
      (nextOf ({ State.reset with devid := 17 }.runCall
          (callDecodeReadRequest (some [0x11, 0x03, 0x00, 0x6B, 0x00, 0x03, 0x76, 0x87]) 8))).map State.replies =
        some [.word 0, .word 0x11, .word 0x6B, .word 3] ∧
      (nextOf (State.reset.runCall (callCrc16 (some reqS4) 6))).map State.replies = some [.word 0x6044] := by decide +kernel
/-- V1.15, V3.15, V4.3, V4.4, V6.3, V7.12, V7.13: each null pointer leaves its flag out, and on failure nothing is dumped. -/
theorem test_call_null_pointers :
    (nextOf (State.reset.runCall (callCrc16 none 6))).map State.replies = some [.word 0xFFFF] ∧
      (nextOf (State.reset.runCall (callEncodeReadRequest 1 0x0258 2 false 8))).map State.replies = some [.word 0] ∧
      (nextOf (State.reset.runCall (callDecodeReadResponse none 9 true 2))).map State.replies = some [.word 1, .word 0] ∧
      (nextOf (State.reset.runCall (callDecodeReadResponse (some rspS4) 9 false 2))).map State.replies = some [.word 1, .word 0] ∧
      (nextOf (State.reset.runCall (callDecodeReadRequest none 8))).map State.replies = some [.word 1, .word 0, .word 0, .word 0] ∧
      (nextOf (State.reset.runCall (callEncodeReadResponse 1 (some [0x03E8, 0x1388]) 2 false 9))).map State.replies = some [.word 0] ∧
      (nextOf (State.reset.runCall (callEncodeReadResponse 1 none 2 true 9))).map State.replies = some [.word 0] := by decide +kernel
/-- The command words of V4.3, V4.4, V7.12 and V7.13, with one flag left out. -/
theorem test_call_null_words :
    cmdLine (.decRsp false true) = .regWrite 0 0x0207 ∧ cmdLine (.decRsp true false) = .regWrite 0 0x0107 ∧
      cmdLine (.encRsp false true) = .regWrite 0 0x020A ∧ cmdLine (.encRsp true false) = .regWrite 0 0x010A := by decide

/-! ### Witnesses: inputs that meet the hypotheses of each obligation, every clause, at the bounds of its range -/

theorem test_witness_DecodeAndEncodeAgree : Instr.wf (.decRsp true false) = true := by decide
theorem test_witness_IgnoredBitsNeverMatter :
    (0xFDF1 : Word) &&& (decode 0x0101).usedMask = 0x0101 &&& (decode 0x0101).usedMask := by decide
theorem test_witness_StepRunsTheCommandWritten :
    (State.reset.withFetchWord 16 0x0307).inputs = .host (.regWrite 0 0x0307) :: [] ∧
      decodeTableWord 16 0x0307 = some (.decRsp true true) := by decide
theorem test_witness_CrcStepsAreBijective : (0x00 : Byte) ≠ 0xFF := by decide
theorem test_witness_OneChangedByteChangesTheCrc : (0x00 : Byte) ≠ 0x80 := by decide
/-- The hypothesis of `Selects`, one word for each of the sixteen opcodes. -/
theorem test_witness_Selects :
    ∀ k : Fin 16, (BitVec.ofNat 16 (0xFFF0 + k)) &&& 0x000F = BitVec.ofNat 16 k := by decide
theorem test_witness_Crc16CommandResult :
    (let s := { State.reset with len := 0 }; s.len.toNat = 0) ∧
      (let s := { State.reset with len := 257 }; 256 < s.len.toNat) ∧
      (let s := { State.reset with len := 1 }; 1 ≤ s.len.toNat ∧ s.len.toNat ≤ 256) ∧
      (let s := { State.reset with len := 256 }; 1 ≤ s.len.toNat ∧ s.len.toNat ≤ 256) := by decide
/-- A frame buffer that differs beyond the declared bytes. -/
theorem test_witness_Crc16CommandReadsOnlyTheDeclaredBytes :
    let s := { testState reqS4 [] with len := 6 }
    let m := testFb [0x01, 0x03, 0x02, 0x58, 0x00, 0x02, 0x99]
    s.len.toNat ≤ 256 ∧ m ≠ s.fb ∧ ∀ a, a < s.len.toNat → ({ s with fb := m } : State).fbRead a = s.fbRead a := by decide +kernel
theorem test_witness_EncReqEncodesOrFails :
    (let s := testEncReq
     6 ≤ s.len.toNat ∧ 1 ≤ s.qty.toNat ∧ s.qty.toNat ≤ 125 ∧ s.sid.toNat ≤ 247 ∧ s.addr.toNat + s.qty.toNat ≤ 0x10000) ∧
    (let s := { testEncReq with sid := 247, addr := 0xFF83, qty := 125, len := 6 }
     6 ≤ s.len.toNat ∧ 1 ≤ s.qty.toNat ∧ s.qty.toNat ≤ 125 ∧ s.sid.toNat ≤ 247 ∧ s.addr.toNat + s.qty.toNat ≤ 0x10000) ∧
    (let s := { testEncReq with addr := 0xFFFF, qty := 2 }; ¬ s.addr.toNat + s.qty.toNat ≤ 0x10000) := by decide
theorem test_witness_EncReqOverrunsASmallCapacity :
    (let s := { testEncReq with len := 5 }
     1 ≤ s.qty.toNat ∧ s.qty.toNat ≤ 125 ∧ s.sid.toNat ≤ 247 ∧ s.addr.toNat + s.qty.toNat ≤ 0x10000 ∧ s.len.toNat ≤ 5) ∧
    (let s := { testEncReq with len := 6 }
     1 ≤ s.qty.toNat ∧ s.qty.toNat ≤ 125 ∧ s.sid.toNat ≤ 247 ∧ s.addr.toNat + s.qty.toNat ≤ 0x10000 ∧ 6 ≤ s.len.toNat) := by decide
/-- V4.5, V4.6, V4.9, V4.10: the clauses up to the byte count. -/
theorem test_witness_DecRspFirstFailingCheckOrRegisters_header :
    (let s := { testRsp with lastreq := 2 }; s.fbRead 0 ≠ s.lastreq) ∧
    (let s := testRsp.fbWrite 1 0x04; s.fbRead 0 = s.lastreq ∧ s.fbRead 1 ≠ 0x03) ∧
    (let s := testRsp.fbWrite 2 0x01; s.fbRead 0 = s.lastreq ∧ s.fbRead 1 = 0x03 ∧ ¬ (2 ≤ (s.fbRead 2).toNat ∧ (s.fbRead 2).toNat ≤ 250)) ∧
    (let s := testRsp.fbWrite 2 0xFB; s.fbRead 0 = s.lastreq ∧ s.fbRead 1 = 0x03 ∧ ¬ (2 ≤ (s.fbRead 2).toNat ∧ (s.fbRead 2).toNat ≤ 250)) := by decide +kernel
/-- V4.11, V4.12, V4.13, V4.1: the clauses after it. -/
theorem test_witness_DecRspFirstFailingCheckOrRegisters_body :
    let ok := fun s : State => s.fbRead 0 = s.lastreq ∧ s.fbRead 1 = 0x03 ∧ 2 ≤ (s.fbRead 2).toNat ∧ (s.fbRead 2).toNat ≤ 250
    (let s := { testRsp with len := 8 }; ok s ∧ s.len.toNat < (s.fbRead 2).toNat + 5) ∧
    (let s := { testRsp with ocap := 1 }; ok s ∧ (s.fbRead 2).toNat + 5 ≤ s.len.toNat ∧ s.ocap.toNat < (s.fbRead 2).toNat / 2) ∧
    (let s := testRsp.fbWrite 8 0x14
     ok s ∧ (s.fbRead 2).toNat + 5 ≤ s.len.toNat ∧ (s.fbRead 2).toNat / 2 ≤ s.ocap.toNat ∧
       crc16 (s.fbBytes 7) ≠ joinBytes (s.fbRead 8) (s.fbRead 7)) ∧
    (ok testRsp ∧ (testRsp.fbRead 2).toNat + 5 ≤ testRsp.len.toNat ∧ (testRsp.fbRead 2).toNat / 2 ≤ testRsp.ocap.toNat ∧
      crc16 (testRsp.fbBytes 7) = joinBytes (testRsp.fbRead 8) (testRsp.fbRead 7)) := by decide +kernel
/-- V4.16: a good header in FB though `LEN` is 0; and `LEN` = 6. -/
theorem test_witness_DecRspWithShortLengthIsAnError :
    [0, 6].map (fun l => let s := { testRsp with len := l }
      decide (s.len.toNat < 7 ∧ s.fbRead 0 = s.lastreq ∧ s.fbRead 1 = 0x03 ∧ 2 ≤ (s.fbRead 2).toNat ∧ (s.fbRead 2).toNat ≤ 250)) =
      [true, true] := by decide +kernel
theorem test_witness_DecRspReadsOnlyTheFrame :
    let m := testFb (rspS4 ++ [0x99])
    m ≠ testRsp.fb ∧ ∀ a, a < (testRsp.fbRead 2).toNat + 5 → ({ testRsp with fb := m } : State).fbRead a = testRsp.fbRead a := by decide +kernel
/-- Also of the corruption, error and buffer statements about a successful `DEC_RSP`. -/
theorem test_witness_DecRspTwiceGivesTheSameResult : ∃ t, exec (.decRsp true true) testRsp = .next t ∧ t.status = .ok :=
  ⟨_, rfl, by decide +kernel⟩
theorem test_witness_SetIdStoresOrRejects :
    (let s := { State.reset with sid := 1 }; 1 ≤ s.sid.toNat ∧ s.sid.toNat ≤ 247) ∧
    (let s := { State.reset with sid := 247 }; 1 ≤ s.sid.toNat ∧ s.sid.toNat ≤ 247) ∧
    (let s := { State.reset with sid := 248 }; 248 ≤ s.sid.toNat) ∧ State.reset.sid.toNat = 0 ∧
    ∃ t, exec .validSid { State.reset with devid := 17 } = .next t ∧ (17 : Byte) ≠ 0 :=
  ⟨by decide, by decide, by decide, by decide, _, rfl, by decide⟩
/-- V6.4, then each of the field checks at its first failing value (V6.9, V6.10, V6.12, V6.13). -/
theorem test_witness_DecReqFirstFailingCheckOrTriple_fields :
    (let s := { testReq with len := 7 }; s.len.toNat < 8) ∧
    (let s := testReq.fbWrite 5 0x00; 8 ≤ s.len.toNat ∧ (joinBytes (s.fbRead 4) (s.fbRead 5)).toNat = 0) ∧
    (let s := testReq.fbWrite 5 0x7E; 8 ≤ s.len.toNat ∧ 125 < (joinBytes (s.fbRead 4) (s.fbRead 5)).toNat) ∧
    (let s := testReq.fbWrite 0 0xF8; 8 ≤ s.len.toNat ∧ 247 < (s.fbRead 0).toNat) ∧
    (let s := (testReq.fbWrite 2 0xFF).fbWrite 3 0xFF
     8 ≤ s.len.toNat ∧ 0x10000 < (joinBytes (s.fbRead 2) (s.fbRead 3)).toNat + (joinBytes (s.fbRead 4) (s.fbRead 5)).toNat) := by decide +kernel
/-- V6.5, V6.16, V6.18, V6.1. -/
theorem test_witness_DecReqFirstFailingCheckOrTriple_rest :
    let ok := fun s : State => 8 ≤ s.len.toNat ∧ 1 ≤ (joinBytes (s.fbRead 4) (s.fbRead 5)).toNat ∧
      (joinBytes (s.fbRead 4) (s.fbRead 5)).toNat ≤ 125 ∧ (s.fbRead 0).toNat ≤ 247 ∧
      (joinBytes (s.fbRead 2) (s.fbRead 3)).toNat + (joinBytes (s.fbRead 4) (s.fbRead 5)).toNat ≤ 0x10000
    (let s := { testReq with devid := 2 }; ok s ∧ s.fbRead 0 ≠ s.devid ∧ s.fbRead 0 ≠ 0) ∧
    (let s := testReq.fbWrite 1 0x04; ok s ∧ s.fbRead 0 = s.devid ∧ s.fbRead 1 ≠ 0x03) ∧
    (let s := testReq.fbWrite 7 0x61
     ok s ∧ s.fbRead 0 = s.devid ∧ s.fbRead 1 = 0x03 ∧ crc16 (s.fbBytes 6) ≠ joinBytes (s.fbRead 7) (s.fbRead 6)) ∧
    (ok testReq ∧ testReq.fbRead 0 = testReq.devid ∧ testReq.fbRead 1 = 0x03 ∧
      crc16 (testReq.fbBytes 6) = joinBytes (testReq.fbRead 7) (testReq.fbRead 6)) := by decide +kernel
/-- V6.7 (a broadcast) and V6.6 (an unconfigured core). -/
theorem test_witness_DecReqBroadcastAndUnconfigured :
    let ok := fun s : State => 8 ≤ s.len.toNat ∧ 1 ≤ (s.be16 4).toNat ∧ (s.be16 4).toNat ≤ 125 ∧ (s.be16 2).toNat + (s.be16 4).toNat ≤ 0x10000
    (let s := { testState [0x00, 0x03, 0x00, 0x10, 0x00, 0x01, 0x84, 0x1E] [] with len := 8 }
     ok s ∧ s.fbRead 0 = 0 ∧ s.fbRead 1 = 0x03 ∧ crc16 (s.fbBytes 6) = s.le16 6) ∧
    (let s := { testReq with devid := 0 }; ok s ∧ s.devid = 0 ∧ 1 ≤ (s.fbRead 0).toNat ∧ (s.fbRead 0).toNat ≤ 247) := by decide +kernel
/-- V6.8: an unconfigured core accepts a broadcast. -/
theorem test_witness_DecReqBroadcastAndUnconfigured_accepted :
    let s := { testState [0x00, 0x03, 0x00, 0x10, 0x00, 0x01, 0x84, 0x1E] [] with len := 8 }
    ∃ t, s.fbRead 0 = 0 ∧ s.devid = 0 ∧ exec (.decReq true) s = .next t ∧ t.status = .ok :=
  ⟨_, by decide +kernel, rfl, rfl, by decide +kernel⟩
theorem test_witness_DecReqReadsOnlyEightBytes :
    let m := testFb (reqS4 ++ [0x99])
    8 ≤ testReq.len.toNat ∧ m ≠ testReq.fb ∧ ∀ a, a < 8 → ({ testReq with fb := m } : State).fbRead a = testReq.fbRead a := by decide +kernel
/-- The least and the greatest quantity, each with the least length; and V7.2. -/
theorem test_witness_EncRspEncodesOrFails :
    (let s := { testEncRsp with qty := 1, len := 7 }
     1 ≤ s.qty.toNat ∧ s.qty.toNat ≤ 125 ∧ s.sid.toNat ≤ 247 ∧ 3 + 2 * s.qty.toNat + 2 ≤ s.len.toNat) ∧
    (let s := { testEncRsp with qty := 125, len := 255 }
     1 ≤ s.qty.toNat ∧ s.qty.toNat ≤ 125 ∧ s.sid.toNat ≤ 247 ∧ 3 + 2 * s.qty.toNat + 2 ≤ s.len.toNat) ∧
    (let s := { testEncRsp with len := 8 }; ¬ 3 + 2 * s.qty.toNat + 2 ≤ s.len.toNat) := by decide
theorem test_witness_RequestRoundTrip :
    ∃ t, exec (.encReq true) testEncReq = .next t ∧ t.status = .ok ∧
      (∀ a, a < 8 → testReq.fbRead a = t.fbRead a) ∧ 8 ≤ testReq.len.toNat ∧ testReq.devid = testEncReq.sid :=
  ⟨_, rfl, by decide +kernel, by decide +kernel, by decide +kernel, by decide +kernel⟩
theorem test_witness_ResponseRoundTrip :
    ∃ t, exec (.encRsp true true) testEncRsp = .next t ∧ t.status = .ok ∧
      (∀ a, a < 5 + 2 * testEncRsp.qty.toNat → testRsp.fbRead a = t.fbRead a) ∧ testRsp.lastreq = testEncRsp.sid ∧
      5 + 2 * testEncRsp.qty.toNat ≤ testRsp.len.toNat ∧ testEncRsp.qty.toNat ≤ testRsp.ocap.toNat :=
  ⟨_, rfl, by decide +kernel, by decide +kernel, by decide +kernel, by decide +kernel, by decide +kernel⟩
/-- The first and the last byte of the frame. -/
theorem test_witness_CorruptedRequestByteIsRejected :
    ∃ t, exec (.decReq true) testReq = .next t ∧ t.status = .ok ∧ (0x00 : Byte) ≠ testReq.fbRead 0 ∧ (0xE0 : Byte) ≠ testReq.fbRead 7 :=
  ⟨_, rfl, by decide +kernel, by decide +kernel, by decide +kernel⟩
/-- The first and the last byte, and a raised byte count at the true frame length, and a lowered one. -/
theorem test_witness_CorruptedResponseByteIsRejected :
    ∃ t, exec (.decRsp true true) testRsp = .next t ∧ t.status = .ok ∧ (0x00 : Byte) ≠ testRsp.fbRead 0 ∧
      8 < (testRsp.fbRead 2).toNat + 5 ∧ (0x05 : Byte) ≠ testRsp.fbRead 8 ∧
      (0x05 : Byte) ≠ testRsp.fbRead 2 ∧ testRsp.len.toNat = (testRsp.fbRead 2).toNat + 5 ∧ (testRsp.fbRead 2).toNat < (0x05 : Byte).toNat ∧
      (0x02 : Byte) ≠ testRsp.fbRead 2 ∧ (0x02 : Byte).toNat < (testRsp.fbRead 2).toNat :=
  ⟨_, rfl, by decide +kernel, by decide +kernel, by decide +kernel, by decide +kernel, by decide +kernel, by decide +kernel, by decide +kernel, by decide +kernel, by decide +kernel⟩
theorem test_witness_CommandsNeverWriteOperandRegisters : ∃ t, exec (.encReq true) testEncReq = .next t := ⟨_, rfl⟩
/-- A failing `DEC_REQ`, and another command that succeeds. -/
theorem test_witness_TripleChangesOnlyBySuccessfulDecReq :
    (∃ t, exec (.decReq true) { testReq with len := 7 } = .next t ∧ t.status ≠ .ok) ∧
      ∃ t, exec (.decRsp true true) testRsp = .next t ∧ t.status = .ok :=
  ⟨⟨_, rfl, by decide +kernel⟩, _, rfl, by decide +kernel⟩
/-- A failing `SET_ID` and a failing `ENC_REQ`. -/
theorem test_witness_HiddenBytesHaveOneWriterEach :
    (∃ t, exec .setId { State.reset with sid := 248, devid := 17 } = .next t ∧ t.status ≠ .ok) ∧
      ∃ t, exec (.encReq true) { testEncReq with len := 5 } = .next t ∧ t.status ≠ .ok :=
  ⟨⟨_, rfl, by decide +kernel⟩, _, rfl, by decide +kernel⟩
theorem test_witness_AnErrorChangesOnlyStatusAndResult : ∃ t, exec (.decRsp true true) { testRsp with len := 8 } = .next t ∧ t.status ≠ .ok :=
  ⟨_, rfl, by decide +kernel⟩
theorem test_witness_OutcomesOfEachCommandAreTheListed : ∃ t, exec (.decReq true) { testReq with len := 7 } = .next t := ⟨_, rfl⟩
theorem test_witness_OnlyDecReqReadsDeviceIdentity : ∀ fbv, Instr.setId ≠ .decReq fbv := by decide
theorem test_witness_OnlyDecRspReadsLastRequest : ∀ fbv rbv, Instr.encReq true ≠ .decRsp fbv rbv := by decide
theorem test_witness_HostMovesDoNotShowHiddenBytes :
    ∃ t, (testReq.withProgram [rd .sid]).inputs = .host (.regRead 3) :: [] ∧ (∀ w, HostMove.regRead 3 ≠ .regWrite 0 w) ∧
      step (testReq.withProgram [rd .sid]) = .next t := ⟨_, rfl, fun _ h => (by cases h), rfl⟩
/-- A cell of FB, and a word of RB, that a command changes. -/
theorem test_witness_BufferCellsACommandMayWrite :
    (∃ t, exec (.encRsp true true) testEncRsp = .next t ∧ t.fbRead 8 ≠ testEncRsp.fbRead 8) ∧
      ∃ t, exec (.decRsp true true) testRsp = .next t ∧ t.rbRead 1 ≠ testRsp.rbRead 1 :=
  ⟨⟨_, rfl, by decide +kernel⟩, _, rfl, by decide +kernel⟩
/-- An encoder that fails and one that does not. -/
theorem test_witness_EncoderResultZeroTellsFailure :
    (∃ t, exec (.encReq true) { testEncReq with len := 5 } = .next t ∧ t.result = 0) ∧
      ∃ t, exec (.encRsp true true) testEncRsp = .next t ∧ t.result ≠ 0 :=
  ⟨⟨_, rfl, by decide +kernel⟩, _, rfl, by decide +kernel⟩
/-- Each index clause: the six that store, and the ends of the range. -/
theorem test_witness_HostRegisterWritesStore :
    ∀ i ∈ [1, 3, 4, 5, 6, 7, 11, 15],
      ({ State.reset with inputs := [.host (.regWrite i 0x01F8)] } : State).inputs = .host (.regWrite i 0x01F8) :: [] ∧ 1 ≤ i ∧ i ≤ 15 := by decide +kernel
theorem test_witness_HostRegisterReadsReply :
    ∀ i, i ≤ 15 → ({ State.reset with inputs := [.host (.regRead i)] } : State).inputs = .host (.regRead i) :: [] := fun _ _ => rfl
/-- Each move at the last cell of its buffer. -/
theorem test_witness_HostBufferMoves :
    (State.reset.withProgram [fbw 255 1]).inputs = .host (.fbWrite 255 1) :: [] ∧
      (State.reset.withProgram [fbr 255]).inputs = .host (.fbRead 255) :: [] ∧
      (State.reset.withProgram [rbw 124 1]).inputs = .host (.rbWrite 124 1) :: [] ∧
      (State.reset.withProgram [rbr 124]).inputs = .host (.rbRead 124) :: [] := by decide +kernel
/-- Each clause at the first index outside. -/
theorem test_witness_MovesOutsideTheirSpaceAreRefused :
    15 < 16 ∧ (State.reset.withProgram [.regRead 16]).inputs = .host (.regRead 16) :: [] ∧
      (State.reset.withProgram [.regWrite 16 7]).inputs = .host (.regWrite 16 7) :: [] ∧
      255 < 256 ∧ (State.reset.withProgram [fbr 256]).inputs = .host (.fbRead 256) :: [] ∧
      (State.reset.withProgram [fbw 256 7]).inputs = .host (.fbWrite 256 7) :: [] ∧
      124 < 125 ∧ (State.reset.withProgram [rbr 125]).inputs = .host (.rbRead 125) :: [] ∧
      (State.reset.withProgram [rbw 125 7]).inputs = .host (.rbWrite 125 7) :: [] := by decide +kernel
theorem test_witness_BufferReadsReturnTheLatestWrite :
    let mid : List HostMove := [fbw 254 9, rd .status]
    (∀ m ∈ mid, m.wf = true ∧ (∀ w, m ≠ .regWrite 0 w) ∧ ∀ v', m ≠ .fbWrite 255 v') ∧
      (State.reset.withProgram (fbw 255 7 :: (mid ++ [fbr 255]))).inputs =
        .host (.fbWrite 255 7) :: (mid.map Input.host ++ [.host (.fbRead 255)]) :=
  ⟨by simp [fbw, rd, HostMove.wf, RegName.index, Config.fbufSize], rfl⟩
theorem test_witness_ResetInputSetsEveryRegister : ({ testReq with inputs := [.reset] } : State).inputs = .reset :: [] := rfl
/-- Also of the statement that a step takes one input. -/
theorem test_witness_EveryStepKeepsTheInvariant :
    (testReq.withFetchWord 16 0x0109).Inv ∧ ∃ t, step (testReq.withFetchWord 16 0x0109) = .next t ∧ t.status = .ok :=
  ⟨⟨by decide +kernel, by decide +kernel, by decide, by decide⟩, _, rfl, by decide +kernel⟩
theorem test_witness_AdmittedRunsNeverStop :
    (State.reset.withProgram [fbw 255 7, rbr 124, .regWrite 15 0]).Admitted := by
  intro x hx
  have h : ∀ y ∈ (State.reset.withProgram [fbw 255 7, rbr 124, .regWrite 15 0]).inputs, y.wf = true := by decide +kernel
  exact h x hx
theorem test_witness_IdleCoreStaysAsItIs : State.reset.inputs = [] := rfl

end Sys2Proof.Tests
end

section
/-! ## Scope: one step takes one input, and admitted runs never stop (00_scope.md R8 to R10) -/

namespace Sys2Proof.Machine

/-! ### Commands and the outside world -/

/-- No command touches the inputs to come, the replies given or the count of resets (R7, R8). -/
theorem exec_sameOutside {i : Instr} {s t : State} (h : exec i s = .next t) : SameOutside s t := by
  unfold SameOutside
  rcases exec_cases_of_next h with ⟨e, -, -, rfl⟩ | ⟨-, -, hok⟩
  · simp
  · rcases hok with ⟨r, rfl, -⟩ | ⟨-, rfl, -⟩ | ⟨f, -, -, rfl⟩ | ⟨f, r, -, -, rfl⟩ | ⟨f, r, -, -, rfl⟩ | ⟨f, -, -, rfl⟩
    · simp
    · simp
    · rw [encReqEffect_eq]; exact ⟨rfl, rfl, rfl⟩
    · rw [encRspEffect_eq]; exact ⟨rfl, rfl, rfl⟩
    · rw [decRspEffect_eq]; exact ⟨rfl, rfl, rfl⟩
    · rw [decReqEffect_eq]; exact ⟨rfl, rfl, rfl⟩

/-- Every command ends in a next state (R9, R10). -/
theorem exec_completes (i : Instr) (s : State) : ∃ t, exec i s = .next t := by
  obtain ⟨t, ht, -⟩ := exec_cases i s
  exact ⟨t, ht⟩

/-- Settles O33: `exec_cases` gives the next state, and no case of it touches the model's own fields. -/
theorem everyCommandCompletes : Obligations.EveryCommandCompletes := by
  intro i s
  obtain ⟨t, ht⟩ := exec_completes i s
  exact ⟨t, ht, exec_sameOutside ht⟩

/-! ### What a step makes of its input -/

/-- Settles O58: the idle core's `fetch` is settled by the state itself. -/
theorem idleCoreStaysAsItIs : Obligations.IdleCoreStaysAsItIs :=
  fun _ hs => step_of_settled (fetch_idle hs)

/-- A step that takes a `RegWrite` to `CMD` runs the command of its word on the state without that input (R8, R23). -/
theorem step_of_cmdWrite {s : State} {w : Word} {rest : List Input} (hs : s.inputs = .host (.regWrite 0 w) :: rest) :
    step s = exec (decode w) { s with inputs := rest } :=
  step_of_command (fetch_host hs)

/-- A 16-bit instruction always is a command word, the one the host writes (R70, R180). -/
theorem decodeTableWord_sixteen (n : Nat) :
    decodeTableWord 16 n = some (decode (BitVec.ofNat 16 (n % 2 ^ 16))) := by
  have hlt : n % 2 ^ 16 < 65536 := Nat.mod_lt n (by decide)
  simp only [decodeTableWord, decodeValue, if_pos hlt]

/-- Settles O4: `withFetchWord` puts the `CMD` write of the decoder's own word in front. -/
theorem stepRunsTheCommandWritten : Obligations.StepRunsTheCommandWritten := by
  refine ⟨fun s w rest hs => step_of_cmdWrite hs, fun s n i hi => ?_⟩
  rw [decodeTableWord_sixteen, Option.some.injEq] at hi
  rw [← hi]
  exact step_of_cmdWrite (s := s.withFetchWord 16 n) rfl

/-! ### Inputs and replies along a step -/

/-- A step takes the first input, if there is one, and adds none (R8). -/
theorem step_inputs {s t : State} (h : step s = .next t) : t.inputs = s.inputs.tail := by
  rcases step_cases h with ⟨hnil, rfl⟩ | ⟨x, rest, hs, -, hx⟩
  · rw [hnil, List.tail_nil]
  · rw [hs, List.tail_cons]
    rcases hx with ⟨-, rfl⟩ | ⟨w, -, hexec⟩ | ⟨i, v, -, -, rfl⟩ | ⟨a, v, -, -, rfl⟩ | ⟨a, v, -, -, rfl⟩ | ⟨r, rfl⟩
    · simp
    · obtain ⟨hin, -, -⟩ := exec_sameOutside hexec
      exact hin
    all_goals simp

/-- A step keeps the replies already given and gives at most one more (R8, R51). -/
theorem step_replies {s t : State} (h : step s = .next t) :
    t.replies = s.replies ∨ ∃ r, t.replies = s.replies ++ [r] := by
  rcases step_cases h with ⟨-, rfl⟩ | ⟨x, rest, -, -, hx⟩
  · exact .inl rfl
  · rcases hx with ⟨-, rfl⟩ | ⟨w, -, hexec⟩ | ⟨i, v, -, -, rfl⟩ | ⟨a, v, -, -, rfl⟩ | ⟨a, v, -, -, rfl⟩ | ⟨r, rfl⟩
    · simp
    · obtain ⟨-, hrep, -⟩ := exec_sameOutside hexec
      exact .inl hrep
    · simp
    · simp
    · simp
    · exact .inr ⟨r, rfl⟩

/-- Settles O57, from what a step does to either list. -/
theorem eachStepTakesOneInput : Obligations.EachStepTakesOneInput := by
  intro s t h
  refine ⟨step_inputs h, ?_⟩
  rcases step_replies h with hr | ⟨r, hr⟩
  · exact ⟨[], by simp [hr]⟩
  · exact ⟨[r], hr, le_rfl⟩

/-! ### Admitted runs -/

/-- An admitted host move never stops the core: a command completes, and any other move is settled by a next state (R10, R51). -/
theorem step_completes_of_host {s : State} {m : HostMove} {rest : List Input} (hs : s.inputs = .host m :: rest)
    (hm : m.wf = true) : ∃ t, step s = .next t := by
  have hf := fetch_host hs
  rcases hostMove_cases hm { s with inputs := rest } with
    ⟨w, -, hc⟩ | ⟨i, v, -, -, hc⟩ | ⟨a, v, -, -, hc⟩ | ⟨i, v, -, -, hc⟩ | ⟨r, hc⟩ <;> rw [hc] at hf
  · rw [step_of_command hf]; exact exec_completes _ _
  all_goals exact ⟨_, step_of_settled hf⟩

/-- A step of a state whose inputs are admitted ends in a next state (R10). -/
theorem State.Admitted.step_completes {s : State} (ha : s.Admitted) : ∃ t, step s = .next t := by
  cases hs : s.inputs with
  | nil => exact ⟨s, step_of_settled (fetch_idle hs)⟩
  | cons x rest =>
    have hx : x.wf = true := ha x (by simp [hs])
    cases x with
    | reset => exact ⟨_, step_of_settled (fetch_reset hs)⟩
    | host m => exact step_completes_of_host hs hx

/-- What is still to come after a step is admitted if it was before. -/
theorem State.Admitted.of_step {s t : State} (ha : s.Admitted) (h : step s = .next t) : t.Admitted := by
  intro x hx
  rw [step_inputs h] at hx
  exact ha x (List.mem_of_mem_tail hx)

/-- Settles O56, by induction on the number of steps: an admitted state steps to an admitted state whose inputs are the tail. -/
theorem admittedRunsNeverStop : Obligations.AdmittedRunsNeverStop := by
  intro n
  induction n with
  | zero => exact fun s ha => ⟨s, rfl, rfl, ha⟩
  | succ n ih =>
    intro s ha
    obtain ⟨u, hstep⟩ := ha.step_completes
    obtain ⟨t, hrun, hin, hta⟩ := ih u (ha.of_step hstep)
    refine ⟨t, (run_succ hstep).trans hrun, ?_, hta⟩
    rw [hin, step_inputs hstep, List.drop_tail]

end Sys2Proof.Machine
end

section
/-! ## State: the invariant, and who writes and reads each part of the state (10_state.md R20 to R28, R33) -/

namespace Sys2Proof.Machine

/-! ### The invariant after reset -/

/-- A reset, whatever its epoch, leaves a state that meets the invariant (R25 to R28, R33). -/
theorem State.afterReset_inv (e : Nat) : (State.afterReset e).Inv :=
  ⟨freshFb_wf e, freshRb_wf e, Nat.zero_le _, Nat.zero_le _⟩

/-- Settles O54: the reset of epoch 0. -/
theorem invariantHoldsAfterReset : Obligations.InvariantHoldsAfterReset := State.afterReset_inv 0

/-- Settles O52: `State.reset` states these values, and both reset parameters are 0. -/
theorem resetRegisterValues : Obligations.ResetRegisterValues :=
  ⟨rfl, rfl, rfl, rfl, rfl, rfl, rfl, rfl, rfl, rfl, rfl, rfl, rfl, rfl, rfl⟩

/-! ### The invariant along commands and steps -/

/-- The invariant speaks of the two buffers and the two hidden bytes only. -/
theorem State.Inv.of_eq {s t : State} (hs : s.Inv) (hfb : t.fb = s.fb) (hrb : t.rb = s.rb) (hd : t.devid = s.devid)
    (hl : t.lastreq = s.lastreq) : t.Inv :=
  ⟨hfb ▸ hs.fbWf, hrb ▸ hs.rbWf, hd ▸ hs.devidRange, hl ▸ hs.lastreqRange⟩

/-- `ENC_REQ` writes inside FB, and its check has held `SID`, the new `LASTREQ`, to 247 (R26, R120). -/
theorem State.Inv.of_encReq {s : State} (hs : s.Inv) {f : Bool} (hc : encReqCheck f s = .ok) :
    (encReqEffect s).Inv := by
  obtain ⟨-, -, -, hsid, -⟩ := (encReqCheck_ok_iff f s).mp hc
  have hfb := encReqEffect_wf s hs.fbWf
  rw [encReqEffect_eq]
  exact ⟨hfb, hs.rbWf, hs.devidRange, hsid⟩

/-- `ENC_RSP` writes inside FB, its check having held `QTY` to 125 (R155). -/
theorem State.Inv.of_encRsp {s : State} (hs : s.Inv) {f r : Bool} (hc : encRspCheck f r s = .ok) :
    (encRspEffect s).Inv := by
  obtain ⟨-, -, ⟨-, hqty⟩, -⟩ := (encRspCheck_ok_iff f r s).mp hc
  have hfb := encRspEffect_wf s hs.fbWf hqty
  rw [encRspEffect_eq]
  exact ⟨hfb, hs.rbWf, hs.devidRange, hs.lastreqRange⟩

/-- `DEC_RSP` writes inside RB, its check having held the byte count to 250 (R125). -/
theorem State.Inv.of_decRsp {s : State} (hs : s.Inv) {f r : Bool} (hc : decRspCheck f r s = .ok) :
    (decRspEffect s).Inv := by
  obtain ⟨-, -, -, -, ⟨-, hbc⟩, -⟩ := (decRspCheck_ok_iff f r s).mp hc
  have hn : rspRegCount s ≤ Config.rbufSize := by
    simp only [rspRegCount, rspByteCount, Config.rbufSize]; omega
  have hrb : Memory.wf Config.rbufSize (decRspEffect s).rb := State.takeRegs_wf hs.rbWf hn
  rw [decRspEffect_eq]
  exact ⟨hs.fbWf, hrb, hs.devidRange, hs.lastreqRange⟩

/-- Every command keeps the invariant (R25 to R28). -/
theorem State.Inv.of_exec {i : Instr} {s t : State} (hs : s.Inv) (h : exec i s = .next t) : t.Inv := by
  rcases exec_cases_of_next h with ⟨e, -, -, rfl⟩ | ⟨-, -, hok⟩
  · exact hs.of_eq rfl rfl rfl rfl
  · rcases hok with ⟨r, rfl, -⟩ | ⟨-, rfl, -, hsid⟩ | ⟨f, -, hc, rfl⟩ | ⟨f, r, -, hc, rfl⟩ | ⟨f, r, -, hc, rfl⟩ | ⟨f, -, -, rfl⟩
    · exact hs.of_eq rfl rfl rfl rfl
    · exact ⟨hs.fbWf, hs.rbWf, hsid, hs.lastreqRange⟩
    · exact hs.of_encReq hc
    · exact hs.of_encRsp hc
    · exact hs.of_decRsp hc
    · exact hs.of_eq rfl rfl rfl rfl

/-- Settles O55: of the inputs a step can take, a command, a reset and an in-range buffer write touch what the invariant speaks of. -/
theorem everyStepKeepsTheInvariant : Obligations.EveryStepKeepsTheInvariant := by
  intro s t hs h
  rcases step_cases h with ⟨-, rfl⟩ | ⟨x, rest, -, -, hx⟩
  · exact hs
  · have hrest : ({ s with inputs := rest } : State).Inv := hs.of_eq rfl rfl rfl rfl
    rcases hx with ⟨-, rfl⟩ | ⟨w, -, hexec⟩ | ⟨i, v, -, -, rfl⟩ | ⟨a, v, -, ha, rfl⟩ | ⟨i, v, -, hi, rfl⟩ | ⟨r, rfl⟩
    · exact (State.afterReset_inv (s.epoch + 1)).of_eq rfl rfl rfl rfl
    · exact hrest.of_exec hexec
    · exact hrest.of_eq (State.writeIndex_fb ..) (State.writeIndex_rb ..) (State.writeIndex_devid ..)
        (State.writeIndex_lastreq ..)
    · exact ⟨State.fbWrite_wf hrest.fbWf ha v, hs.rbWf, hs.devidRange, hs.lastreqRange⟩
    · exact ⟨hs.fbWf, State.rbWrite_wf hrest.rbWf hi v, hs.devidRange, hs.lastreqRange⟩
    · exact hrest.of_eq rfl rfl rfl rfl

/-! ### Which command writes what -/

/-- Settles O34: no case of `exec_cases` touches an operand register. -/
theorem commandsNeverWriteOperandRegisters : Obligations.CommandsNeverWriteOperandRegisters := by
  intro i s t h
  unfold SameOperands
  rcases exec_cases_of_next h with ⟨e, -, -, rfl⟩ | ⟨-, -, hok⟩
  · simp
  · rcases hok with ⟨r, rfl, -⟩ | ⟨-, rfl, -⟩ | ⟨f, -, -, rfl⟩ | ⟨f, r, -, -, rfl⟩ | ⟨f, r, -, -, rfl⟩ | ⟨f, -, -, rfl⟩
    · simp
    · simp
    · rw [encReqEffect_eq]; simp
    · rw [encRspEffect_eq]; simp
    · rw [decRspEffect_eq]; simp
    · rw [decReqEffect_eq]; simp

/-- Settles O35: of the cases of `exec_cases` only the effect of `DEC_REQ` touches the triple, and it ends in `Ok`. -/
theorem tripleChangesOnlyBySuccessfulDecReq : Obligations.TripleChangesOnlyBySuccessfulDecReq := by
  intro i s t h hnot
  unfold SameTriple
  rcases exec_cases_of_next h with ⟨e, -, -, rfl⟩ | ⟨hstatus, -, hok⟩
  · simp
  · rcases hok with ⟨r, rfl, -⟩ | ⟨-, rfl, -⟩ | ⟨f, -, -, rfl⟩ | ⟨f, r, -, -, rfl⟩ | ⟨f, r, -, -, rfl⟩ | ⟨f, hi, -, -⟩
    · simp
    · simp
    · rw [encReqEffect_eq]; simp
    · rw [encRspEffect_eq]; simp
    · rw [decRspEffect_eq]; simp
    · exact absurd ⟨⟨f, hi⟩, hstatus⟩ hnot

/-- Settles O36: of the cases of `exec_cases` only the effect of `SET_ID` touches `DEVID` and only that of `ENC_REQ` `LASTREQ`, and both end in `Ok`. -/
theorem hiddenBytesHaveOneWriterEach : Obligations.HiddenBytesHaveOneWriterEach := by
  intro i s t h
  rcases exec_cases_of_next h with ⟨e, -, -, rfl⟩ | ⟨hstatus, -, hok⟩
  · simp
  · rcases hok with ⟨r, rfl, -⟩ | ⟨hi, rfl, -⟩ | ⟨f, hi, -, rfl⟩ | ⟨f, r, -, -, rfl⟩ | ⟨f, r, -, -, rfl⟩ | ⟨f, -, -, rfl⟩
    · simp
    · exact ⟨fun hnot => absurd ⟨hi, hstatus⟩ hnot, fun _ => rfl⟩
    · exact ⟨fun _ => by rw [encReqEffect_eq], fun hnot => absurd ⟨⟨f, hi⟩, hstatus⟩ hnot⟩
    · rw [encRspEffect_eq]; simp
    · rw [decRspEffect_eq]; simp
    · rw [decReqEffect_eq]; simp

/-! ### Which command reads `LASTREQ` -/

/-- A command whose checks do not read `LASTREQ` and whose effect keeps it keeps it. -/
theorem State.conclude_setLastreq {s : State} {l : Byte} {eff : State → State}
    (heff : eff (s.setLastreq l) = (eff s).setLastreq l) (e : Err) :
    (s.setLastreq l).conclude e eff = (s.conclude e eff).setLastreq l := by
  rcases State.conclude_cases s e eff with ⟨rfl, h⟩ | ⟨he, h⟩
  · rw [h, State.conclude_ok, heff]
  · rw [h, State.conclude_error _ he]; rfl

/-- `ENC_REQ` overwrites `LASTREQ` and does not read it (R120). -/
theorem encReqEffect_setLastreq (s : State) (l : Byte) : encReqEffect (s.setLastreq l) = encReqEffect s := by
  have h : encReqEffect (s.setLastreq l) = { encReqEffect s with devid := s.devid } :=
    encReqEffect_upd s s.status s.result s.devid l
  rw [h, encReqEffect_eq]

/-- `ENC_RSP` neither reads nor writes `LASTREQ` (R155). -/
theorem encRspEffect_setLastreq (s : State) (l : Byte) :
    encRspEffect (s.setLastreq l) = (encRspEffect s).setLastreq l := by
  have h : encRspEffect (s.setLastreq l) = { encRspEffect s with devid := s.devid, lastreq := l } :=
    encRspEffect_upd s s.status s.result s.devid l
  rw [h, encRspEffect_eq]; rfl

/-- Of the commands only `DEC_RSP` reads `LASTREQ` (R26): `ENC_REQ` may lose the difference, every other keeps it. -/
theorem exec_setLastreq {i : Instr} (hi : ∀ fbv rbv, i ≠ .decRsp fbv rbv) (s : State) (l : Byte) :
    ∃ t l', exec i s = .next t ∧ exec i (s.setLastreq l) = .next (t.setLastreq l') := by
  cases i with
  | decRsp f r => exact absurd rfl (hi f r)
  | crc16 f => exact ⟨_, l, rfl, congrArg _ (State.conclude_setLastreq rfl (crc16Check f s))⟩
  | setId => exact ⟨_, l, rfl, congrArg _ (State.conclude_setLastreq rfl (setIdCheck s))⟩
  | decReq f => exact ⟨_, l, rfl, congrArg _ (State.conclude_setLastreq rfl (decReqCheck f s))⟩
  | encRsp f r =>
    exact ⟨_, l, rfl, congrArg _ (State.conclude_setLastreq (encRspEffect_setLastreq s l) (encRspCheck f r s))⟩
  | encReq f =>
    have hnext : ∀ u : State, exec (.encReq f) u = .next (u.conclude (encReqCheck f u) encReqEffect) := fun _ => rfl
    have hcheck : encReqCheck f (s.setLastreq l) = encReqCheck f s := rfl
    rw [hnext, hnext, hcheck]
    rcases encReqCheck_cases f s with h | h <;> rw [h]
    · rw [State.conclude_ok, State.conclude_ok, encReqEffect_setLastreq]
      exact ⟨_, (encReqEffect s).lastreq, rfl, rfl⟩
    · exact ⟨_, l, rfl, rfl⟩
  | _ => exact ⟨_, l, rfl, rfl⟩

/-- Settles O41: a different `LASTREQ` is `setLastreq`, which `exec_setLastreq` carries through every command but `DEC_RSP`. -/
theorem onlyDecRspReadsLastRequest : Obligations.OnlyDecRspReadsLastRequest :=
  fun _ s l hi => exec_setLastreq hi s l

end Sys2Proof.Machine
end

section
/-! ## Memory: what the host's moves and the commands do to the registers and the buffers (20_memory.md R51, R57, R58, R60) -/

namespace Sys2Proof.Machine

/-! ### Which bytes `CRC16` reads -/

/-- The result of `CRC16` depends on no byte of FB but `FB[0..LEN-1]`, and on none at all of a null buffer (R57, R103). -/
theorem crc16Result_congr {fbv : Bool} {s : State} {m : FrameBuffer}
    (h : fbv = true → ∀ a, a < s.len.toNat → ({ s with fb := m } : State).fbRead a = s.fbRead a) :
    crc16Result fbv { s with fb := m } = crc16Result fbv s := by
  cases fbv with
  | false => rfl
  | true =>
    have hbytes := State.fbBytes_congr (h rfl)
    simp only [crc16Result, hbytes]

/-- Settles O12: the check of `CRC16` reads no byte, and where it passes the two results agree. -/
theorem crc16CommandReadsOnlyTheDeclaredBytes : Obligations.Crc16CommandReadsOnlyTheDeclaredBytes := by
  intro fbv s m hm
  have hnext : ∀ u : State, exec (.crc16 fbv) u =
      .next (u.conclude (crc16Check fbv u) fun t => t.finish .ok (crc16Result fbv u)) := fun _ => rfl
  have hcheck : crc16Check fbv { s with fb := m } = crc16Check fbv s := rfl
  refine ⟨_, hnext s, ?_⟩
  rw [hnext, hcheck]
  rcases crc16Check_cases fbv s with ⟨hc, hlen⟩ | ⟨hc, -⟩ <;> rw [hc]
  · have hres : crc16Result fbv { s with fb := m } = crc16Result fbv s := by
      refine crc16Result_congr fun hf => hm hf ?_
      rcases hlen with hf' | h0 | hle
      · simp [hf] at hf'
      · simp [h0]
      · exact hle
    rw [hres]; rfl
  · rfl

/-! ### Which buffer cells a command writes -/

/-- A byte of FB that a command changes belongs to the frame of a successful encoder (R57, R58). -/
theorem exec_changes_fb {i : Instr} {s t : State} (h : exec i s = .next t) {a : Nat} (ha : t.fbRead a ≠ s.fbRead a) :
    t.status = .ok ∧ ((∃ fbv, i = .encReq fbv) ∧ a < 8 ∨
      (∃ fbv rbv, i = .encRsp fbv rbv) ∧ s.qty.toNat ≤ 125 ∧ a < 5 + 2 * s.qty.toNat) := by
  rcases exec_cases_of_next h with ⟨e, -, -, rfl⟩ | ⟨hstatus, -, hok⟩
  · exact absurd rfl ha
  · refine ⟨hstatus, ?_⟩
    rcases hok with ⟨r, rfl, -⟩ | ⟨-, rfl, -⟩ | ⟨f, hi, -, rfl⟩ | ⟨f, r, hi, hc, rfl⟩ | ⟨f, r, -, -, rfl⟩ | ⟨f, -, -, rfl⟩
    · exact absurd rfl ha
    · exact absurd rfl ha
    · refine .inl ⟨⟨f, hi⟩, ?_⟩
      by_contra hge
      exact ha (by rw [encReqEffect_read, if_neg hge])
    · obtain ⟨-, -, ⟨-, hqty⟩, -⟩ := (encRspCheck_ok_iff f r s).mp hc
      refine .inr ⟨⟨f, r, hi⟩, hqty, ?_⟩
      by_contra hge
      exact ha (by rw [encRspEffect_read s hqty, if_neg hge])
    · exact absurd (by simp [decRspEffect]) ha
    · exact absurd rfl ha

/-- A word of RB that a command changes is one of the registers a successful `DEC_RSP` delivers (R57, R58). -/
theorem exec_changes_rb {i : Instr} {s t : State} (h : exec i s = .next t) {k : Nat} (hk : t.rbRead k ≠ s.rbRead k) :
    t.status = .ok ∧ (∃ fbv rbv, i = .decRsp fbv rbv) ∧ (s.fbRead 2).toNat ≤ 250 ∧ k < (s.fbRead 2).toNat / 2 := by
  rcases exec_cases_of_next h with ⟨e, -, -, rfl⟩ | ⟨hstatus, -, hok⟩
  · exact absurd rfl hk
  · refine ⟨hstatus, ?_⟩
    rcases hok with ⟨r, rfl, -⟩ | ⟨-, rfl, -⟩ | ⟨f, -, -, rfl⟩ | ⟨f, r, -, -, rfl⟩ | ⟨f, r, hi, hc, rfl⟩ | ⟨f, -, -, rfl⟩
    · exact absurd rfl hk
    · exact absurd rfl hk
    · exact absurd (by simp [encReqEffect]) hk
    · exact absurd (by simp [encRspEffect]) hk
    · obtain ⟨-, -, -, -, ⟨-, hbc⟩, -⟩ := (decRspCheck_ok_iff f r s).mp hc
      refine ⟨⟨f, r, hi⟩, hbc, ?_⟩
      by_contra hge
      exact hk (by rw [decRspEffect, State.rbRead_finish, State.rbRead_takeRegs, rspRegCount, rspByteCount, if_neg hge])
    · exact absurd rfl hk

/-- Settles O43: the writers' checks hold `QTY` to 125 and the byte count to 250, so what they write is inside the buffers. -/
theorem bufferCellsACommandMayWrite : Obligations.BufferCellsACommandMayWrite := by
  intro i s t h
  refine ⟨fun a ha => ?_, fun k hk => ?_⟩
  · obtain ⟨hstatus, ⟨hi, hlt⟩ | ⟨hi, hqty, hlt⟩⟩ := exec_changes_fb h ha
    · exact ⟨hstatus, by omega, .inl ⟨hi, hlt⟩⟩
    · exact ⟨hstatus, by omega, .inr ⟨hi, hlt⟩⟩
  · obtain ⟨hstatus, hi, hbc, hlt⟩ := exec_changes_rb h hk
    exact ⟨hstatus, by omega, hi, hlt⟩

/-! ### The host's moves one by one -/

/-- A step that takes a host move which is settled at once answers what the move comes to (R51). -/
theorem step_of_settledMove {s : State} {m : HostMove} {rest : List Input} {o : Host.Outcome State Fault Refusal}
    (hs : s.inputs = .host m :: rest) (hm : hostMove m { s with inputs := rest } = .settled o) : step s = o :=
  step_of_settled ((fetch_host hs).trans hm)

/-- Settles O49: each move's test of its own space fails. -/
theorem movesOutsideTheirSpaceAreRefused : Obligations.MovesOutsideTheirSpaceAreRefused := by
  intro s n rest
  refine ⟨fun hn => ?_, fun hn => ?_, fun hn => ?_⟩
  all_goals
    rintro (hs | ⟨v, hs⟩)
    · exact step_of_settledMove hs (if_neg (Nat.not_lt.mpr hn))
    · exact step_of_settledMove hs (if_neg (Nat.not_lt.mpr hn))

/-- Settles O48: inside its space each buffer move is the model's buffer operation. -/
theorem hostBufferMoves : Obligations.HostBufferMoves := by
  intro s a rest
  refine ⟨fun v hs ha => ?_, fun hs ha => ?_, fun v hs ha => ?_, fun hs ha => ?_⟩
  · exact ⟨_, step_of_settledMove hs (if_pos (Nat.lt_succ_of_le ha)), rfl, fun b => State.fbRead_fbWrite _ a b v⟩
  · exact step_of_settledMove hs (if_pos (Nat.lt_succ_of_le ha))
  · exact ⟨_, step_of_settledMove hs (if_pos (Nat.lt_succ_of_le ha)), rfl, fun b => State.rbRead_rbWrite _ a b v⟩
  · exact step_of_settledMove hs (if_pos (Nat.lt_succ_of_le ha))

/-- The low byte of a word is the word cut to 8 bits (R21). -/
theorem loByte_eq_setWidth (v : Word) : loByte v = v.setWidth 8 :=
  BitVec.eq_of_toNat_eq (by simp [loByte])

/-- A host write to a register other than `CMD` only stores (R51). -/
theorem step_of_regWrite {s : State} {i : Nat} {v : Word} {rest : List Input}
    (hs : s.inputs = .host (.regWrite i v) :: rest) (h0 : i ≠ 0) (hi : i ≤ 15) :
    step s = .next (({ s with inputs := rest } : State).writeIndex i v) :=
  step_of_settledMove hs (by rw [hostMove, if_pos (Nat.lt_succ_of_le hi), if_neg h0])

/-- Settles O46, index by index of the register map (R32). -/
theorem hostRegisterWritesStore : Obligations.HostRegisterWritesStore := by
  rintro s t i v rest hs rfl h1 h15
  rw [step_of_regWrite hs (Nat.ne_of_gt h1) h15, ← loByte_eq_setWidth]
  interval_cases i <;> rfl

/-- Settles O47, index by index of the register map (R32). -/
theorem hostRegisterReadsReply : Obligations.HostRegisterReadsReply := by
  intro s i rest hs h15
  rw [step_of_settledMove hs (if_pos (Nat.lt_succ_of_le h15))]
  interval_cases i <;> rfl

/-! ### A read returns the latest write -/

/-- An admitted host move that starts no command and does not write `FB[a]`. -/
def HostMove.Spares (a : Nat) (m : HostMove) : Prop :=
  m.wf = true ∧ (∀ w, m ≠ .regWrite 0 w) ∧ ∀ v, m ≠ .fbWrite a v

/-- A step that takes such a move completes and leaves `FB[a]` as it was (R51, R58). -/
theorem step_of_spares {s : State} {m : HostMove} {rest : List Input} {a : Nat} (hs : s.inputs = .host m :: rest)
    (hm : m.Spares a) : ∃ t, step s = .next t ∧ t.inputs = rest ∧ t.fbRead a = s.fbRead a := by
  obtain ⟨hwf, hcmd, hfb⟩ := hm
  rcases hostMove_cases hwf { s with inputs := rest } with
    ⟨w, rfl, -⟩ | ⟨i, v, -, -, h⟩ | ⟨b, v, rfl, -, h⟩ | ⟨i, v, -, -, h⟩ | ⟨r, h⟩
  · exact absurd rfl (hcmd w)
  · exact ⟨_, step_of_settledMove hs h, by simp, by simp [State.fbRead]⟩
  · have hab : a ≠ b := fun hab => hfb v (by rw [hab])
    exact ⟨_, step_of_settledMove hs h, rfl, by rw [State.fbRead_fbWrite, if_neg hab]; rfl⟩
  · exact ⟨_, step_of_settledMove hs h, rfl, rfl⟩
  · exact ⟨_, step_of_settledMove hs h, rfl, rfl⟩

/-- A read of `FB[a]` after moves that spare it replies with what it held before them; by induction on the moves. -/
theorem run_spares_then_fbRead {a : Nat} (ha : a ≤ 255) {mid : List HostMove} (hmid : ∀ m ∈ mid, m.Spares a) {s : State}
    (hs : s.inputs = mid.map Input.host ++ [.host (.fbRead a)]) :
    ∃ t, core.run (mid.length + 1) s = .next t ∧ t.inputs = [] ∧
      ∃ early, t.replies = early ++ [.byte (s.fbRead a)] := by
  induction mid generalizing s with
  | nil =>
    have hstep := step_of_settledMove hs (if_pos (Nat.lt_succ_of_le ha))
    exact ⟨_, run_succ hstep, rfl, s.replies, rfl⟩
  | cons m mid ih =>
    rw [List.forall_mem_cons] at hmid
    obtain ⟨hm, hrest⟩ := hmid
    obtain ⟨u, hstep, hin, hread⟩ := step_of_spares hs hm
    obtain ⟨t, hrun, hlast⟩ := ih hrest hin
    rw [hread] at hlast
    exact ⟨t, (run_succ hstep).trans hrun, hlast⟩

/-- Settles O50: after the write `FB[a]` holds the byte, and the moves between spare it. -/
theorem bufferReadsReturnTheLatestWrite : Obligations.BufferReadsReturnTheLatestWrite := by
  intro s a v mid ha hmid hs
  have hstep := step_of_settledMove hs (if_pos (Nat.lt_succ_of_le ha))
  obtain ⟨t, hrun, hin, hreply⟩ := run_spares_then_fbRead ha hmid (s := State.fbWrite { s with inputs := _ } a v) rfl
  rw [State.fbRead_fbWrite, if_pos rfl] at hreply
  exact ⟨t, (run_succ hstep).trans hrun, hin, hreply⟩

end Sys2Proof.Machine
end

section
/-! ## Encoding: the command word and its ignored bits, the reserved opcodes, the byte order of a field (30_encoding.md R70 to R73, R76) -/

namespace Sys2Proof.Machine

/-! ### The word of a command -/

/-- The bits of a command's word: `OP`, the two flags, and 0 elsewhere (R70, R73). -/
theorem encode_getLsbD (i : Instr) (k : Nat) : (encode i).getLsbD k =
    if k < 4 then i.op.getLsbD k else if k = 8 then i.fbvBit else if k = 9 then i.rbvBit else false :=
  assembleWord_getLsbD ..

theorem wordOp_encode (i : Instr) : wordOp (encode i) = i.op := by
  apply BitVec.eq_of_getLsbD_eq
  intro k hk
  rw [wordOp_getLsbD _ hk, encode_getLsbD, if_pos hk]

theorem wordFbv_encode (i : Instr) : wordFbv (encode i) = i.fbvBit := encode_getLsbD i 8

theorem wordRbv_encode (i : Instr) : wordRbv (encode i) = i.rbvBit := encode_getLsbD i 9

/-- A command is the one its own opcode and flags select (R71, R72). -/
theorem commandOf_fields (i : Instr) : commandOf i.op.toNat i.fbvBit i.rbvBit = i := by
  cases i <;> rfl

theorem decode_encode (i : Instr) : decode (encode i) = i := by
  rw [decode, wordOp_encode, wordFbv_encode, wordRbv_encode, commandOf_fields]

/-- Settles O1: each word is the encoding of its command. -/
theorem decodeReadsTheSpecsCommandWords : Obligations.DecodeReadsTheSpecsCommandWords :=
  ⟨decode_encode (.crc16 true), decode_encode (.crc16 false), decode_encode .validQty, decode_encode .validBc,
    decode_encode .validSid, decode_encode .validAddr, decode_encode (.encReq true), decode_encode (.decRsp true true),
    decode_encode .setId, decode_encode (.decReq true), decode_encode (.encRsp true true), decode_encode .illegal0,
    decode_encode .illegalB, decode_encode .illegalC, decode_encode .illegalD, decode_encode .illegalE,
    decode_encode .illegalF⟩

/-! ### The command of a word -/

theorem decode_op (w : Word) : (decode w).op = wordOp w := by
  rw [decode, commandOf_op (wordOp w).isLt, BitVec.ofNat_toNat, BitVec.setWidth_eq]

/-- Of the word's flags a command keeps those it uses (R73). -/
theorem decode_fbvBit (w : Word) : (decode w).fbvBit = (w.getLsbD 8 && (decode w).usedMask.getLsbD 8) :=
  (commandOf_fbvBit ..).trans (Bool.and_comm ..)

theorem decode_rbvBit (w : Word) : (decode w).rbvBit = (w.getLsbD 9 && (decode w).usedMask.getLsbD 9) :=
  (commandOf_rbvBit ..).trans (Bool.and_comm ..)

/-- Bit by bit: the opcode is kept, a flag where the command uses it, and no other bit. -/
theorem encode_decode (w : Word) : encode (decode w) = w &&& (decode w).usedMask := by
  apply BitVec.eq_of_getLsbD_eq
  intro k _
  rw [encode_getLsbD, BitVec.getLsbD_and, usedMask_getLsbD]
  by_cases hop : k < 4
  · rw [if_pos hop, if_pos hop, decode_op, wordOp_getLsbD w hop, Bool.and_true]
  · rw [if_neg hop, if_neg hop]
    by_cases h8 : k = 8
    · rw [if_pos h8, if_pos h8, decode_fbvBit, h8]
    · rw [if_neg h8, if_neg h8]
      by_cases h9 : k = 9
      · rw [if_pos h9, if_pos h9, decode_rbvBit, h9]
      · rw [if_neg h9, if_neg h9, Bool.and_false]

theorem instr_wf (i : Instr) : i.wf = true := by
  cases i <;> rfl

/-- Settles O2: `decode_encode` and `encode_decode`. -/
theorem decodeAndEncodeAgree : Obligations.DecodeAndEncodeAgree :=
  ⟨fun i _ => decode_encode i, fun w => ⟨instr_wf _, encode_decode w⟩⟩

/-! ### Ignored bits -/

/-- Every command reads the whole of `OP` (R71). -/
theorem wordOp_and_usedMask (w : Word) (i : Instr) : wordOp (w &&& i.usedMask) = wordOp w := by
  apply BitVec.eq_of_getLsbD_eq
  intro k hk
  rw [wordOp_getLsbD _ hk, wordOp_getLsbD _ hk, BitVec.getLsbD_and, usedMask_getLsbD, if_pos hk, Bool.and_true]

/-- Which bits a command uses is a matter of its opcode alone (R71). -/
theorem commandOf_usedMask (k : Nat) (f r f' r' : Bool) :
    (commandOf k f r).usedMask = (commandOf k f' r').usedMask := by
  unfold commandOf; split <;> rfl

/-- The words that agree with `w` on the bits its command uses decode to the same command: they have its opcode, so the same bits are used, and the two commands have the same word. -/
theorem decode_congr {w w' : Word} (h : w &&& (decode w).usedMask = w' &&& (decode w).usedMask) :
    decode w' = decode w := by
  have hop : wordOp w' = wordOp w := by
    rw [← wordOp_and_usedMask w' (decode w), ← h, wordOp_and_usedMask]
  have hmask : (decode w').usedMask = (decode w).usedMask := by
    rw [decode, hop]; exact commandOf_usedMask ..
  have henc : encode (decode w') = encode (decode w) := by
    rw [encode_decode, encode_decode, hmask, h]
  rw [← decode_encode (decode w'), henc, decode_encode]

/-- Settles O3: the two words decode to one command. -/
theorem ignoredBitsNeverMatter : Obligations.IgnoredBitsNeverMatter :=
  fun _ _ h s => congrArg (exec · s) (decode_congr h)

/-! ### Reserved opcodes -/

/-- The low four bits of a word select its command (R71, R72). -/
theorem selects_commandOf (op : Word) : Selects op (commandOf op.toNat) := by
  intro w hw
  rw [decode, wordOp_toNat, hw]; rfl

/-- Settles O32: `selects_commandOf` at the six opcodes, and each of the six commands is `State.illegal` by definition. -/
theorem reservedOpcodesAreIllegalCommands : Obligations.ReservedOpcodesAreIllegalCommands :=
  ⟨selects_commandOf 0x0, selects_commandOf 0xB, selects_commandOf 0xC, selects_commandOf 0xD, selects_commandOf 0xE,
    selects_commandOf 0xF, fun _ => ⟨rfl, rfl, rfl, rfl, rfl, rfl⟩⟩

/-! ### Fields of two bytes -/

/-- `{hi, lo} = hi * 256 + lo` (R5). -/
theorem joinBytes_toNat (hi lo : Byte) : (joinBytes hi lo).toNat = hi.toNat * 256 + lo.toNat := by
  rw [joinBytes, BitVec.toNat_append, ← Nat.shiftLeft_add_eq_or_of_lt lo.isLt, Nat.shiftLeft_eq]

theorem hiByte_toNat (v : Word) : (hiByte v).toNat = v.toNat / 256 := by
  have hv := v.isLt
  rw [hiByte, BitVec.extractLsb'_toNat, Nat.shiftRight_eq_div_pow]
  omega

theorem loByte_toNat (v : Word) : (loByte v).toNat = v.toNat % 256 := by
  rw [loByte, BitVec.extractLsb'_toNat, Nat.shiftRight_zero]

@[simp] theorem State.fbRead_putBe16_fst (s : State) (a : Nat) (v : Word) : (s.putBe16 a v).fbRead a = hiByte v := by
  rw [State.fbRead_putBe16, if_neg (Nat.ne_of_lt a.lt_succ_self), if_pos rfl]

@[simp] theorem State.fbRead_putBe16_snd (s : State) (a : Nat) (v : Word) :
    (s.putBe16 a v).fbRead (a + 1) = loByte v := by
  rw [State.fbRead_putBe16, if_pos rfl]

@[simp] theorem State.fbRead_putLe16_fst (s : State) (a : Nat) (v : Word) : (s.putLe16 a v).fbRead a = loByte v := by
  rw [State.fbRead_putLe16, if_neg (Nat.ne_of_lt a.lt_succ_self), if_pos rfl]

@[simp] theorem State.fbRead_putLe16_snd (s : State) (a : Nat) (v : Word) :
    (s.putLe16 a v).fbRead (a + 1) = hiByte v := by
  rw [State.fbRead_putLe16, if_pos rfl]

theorem State.be16_putBe16 (s : State) (a : Nat) (v : Word) : (s.putBe16 a v).be16 a = v := by
  rw [State.be16, State.fbRead_putBe16_fst, State.fbRead_putBe16_snd, joinBytes_hiByte_loByte]

theorem State.le16_putLe16 (s : State) (a : Nat) (v : Word) : (s.putLe16 a v).le16 a = v := by
  rw [State.le16, State.fbRead_putLe16_fst, State.fbRead_putLe16_snd, joinBytes_hiByte_loByte]

theorem State.putBe16_sameFbOutside (s : State) (a : Nat) (v : Word) :
    SameFbOutside (fun b => b = a ∨ b = a + 1) s (s.putBe16 a v) := by
  intro b hb
  obtain ⟨ha, ha'⟩ := not_or.mp hb
  rw [State.fbRead_putBe16, if_neg ha', if_neg ha]

theorem State.putLe16_sameFbOutside (s : State) (a : Nat) (v : Word) :
    SameFbOutside (fun b => b = a ∨ b = a + 1) s (s.putLe16 a v) := by
  intro b hb
  obtain ⟨ha, ha'⟩ := not_or.mp hb
  rw [State.fbRead_putLe16, if_neg ha', if_neg ha]

/-- Settles O45: what each byte of the field is, then its value by `joinBytes_toNat`, `hiByte_toNat`, `loByte_toNat`. -/
theorem fieldAssemblyReturnsTheValue : Obligations.FieldAssemblyReturnsTheValue := by
  intro s a v
  refine ⟨joinBytes_toNat .., joinBytes_toNat .., ?_, ?_, ?_, ?_, s.be16_putBe16 a v, s.le16_putLe16 a v,
    s.putBe16_sameFbOutside a v, s.putLe16_sameFbOutside a v⟩
  · rw [State.fbRead_putBe16_fst, hiByte_toNat]
  · rw [State.fbRead_putBe16_snd, loByte_toNat]
  · rw [State.fbRead_putLe16_fst, loByte_toNat]
  · rw [State.fbRead_putLe16_snd, hiByte_toNat]

end Sys2Proof.Machine
end

section
/-! ## The CRC Engine: the bit and byte steps, the CRC of a sequence, the command `CRC16` (40_crc_engine.md R100 to R105) -/

namespace Sys2Proof.Machine

/-! ### The table form of the byte step -/

/-- `n` bit steps of a word whose low `n` bits are 0 only shift it: no bit pushed out is 1 (R100). -/
theorem crcBits_eq_shift {n : Nat} {c : Word} (h : ∀ i < n, c.getLsbD i = false) : crcBits n c = c >>> n := by
  induction n generalizing c with
  | zero => rfl
  | succ n ih =>
    have hbit : crcBit c = c >>> 1 := by rw [crcBit, h 0 n.succ_pos]; rfl
    have hlow : ∀ i < n, (c >>> 1).getLsbD i = false := fun i hi => by
      rw [BitVec.getLsbD_ushiftRight]; exact h (1 + i) (by omega)
    rw [crcBits, hbit, ih hlow, ← BitVec.shiftRight_add, Nat.add_comm]

/-- The running CRC with a byte brought in is its high byte in place beside its low byte with the byte brought in. -/
theorem xor_zeroExtend_split (c : Word) (b : Byte) :
    c ^^^ b.zeroExtend 16 = (c >>> 8) <<< 8 ^^^ (c.setWidth 8 ^^^ b).zeroExtend 16 := by
  apply BitVec.eq_of_getLsbD_eq
  intro i hi
  by_cases h : i < 8
  · simp [h, hi]
  · simp [h, hi, Nat.add_sub_cancel' (Nat.le_of_not_lt h)]

/-- From a running CRC of 0 the byte step is the bit steps of the byte alone (R101). -/
theorem crcByte_zero (b : Byte) : crcByte 0 b = crcBits 8 (b.zeroExtend 16) := by
  simp [crcByte]

/-- The table form: the high byte is shifted down, the low byte and the byte brought in index the table (R105 (c)). -/
theorem crcByte_table (c : Word) (b : Byte) : crcByte c b = c >>> 8 ^^^ crcByte 0 (c.setWidth 8 ^^^ b) := by
  have hlow : ∀ i < 8, ((c >>> 8) <<< 8).getLsbD i = false := fun i hi => by simp [hi]
  have hback : ((c >>> 8) <<< 8) >>> 8 = c >>> 8 := by
    apply BitVec.eq_of_getLsbD_eq
    intro i hi
    by_cases h : 8 + i < 16
    · simp [h]
    · simp [Nat.le_of_not_lt h]
  rw [crcByte, xor_zeroExtend_split, crcBits_xor, crcBits_eq_shift hlow, hback, crcByte_zero]

/-- Settles O7: the first form is the byte step's definition, the second is `crcByte_table`. -/
theorem crcByteStepInTableForm : Obligations.CrcByteStepInTableForm := by
  refine ⟨fun c b => ⟨?_, crcByte_table c b⟩, ?_, ?_, ?_, ?_, ?_⟩
  · simp [crcByte]
  all_goals decide

/-! ### The CRC of a sequence -/

/-- The CRC of a concatenation goes on from the CRC of its first part (R105 (b)). -/
theorem crc16_append (x y : List Byte) : crc16 (x ++ y) = y.foldl crcByte (crc16 x) := List.foldl_append

/-- Settles O5: one more byte is the concatenation with a sequence of one. -/
theorem crcOfEmptyAndOfMoreBytes : Obligations.CrcOfEmptyAndOfMoreBytes :=
  ⟨rfl, fun bs b => crc16_append bs [b], crc16_append⟩

/-- Settles O6: the model evaluated at the words printed in R104. -/
theorem workedCrcBitSteps : Obligations.WorkedCrcBitSteps := by
  refine ⟨?_, ?_, ?_, ?_, ?_, ?_⟩ <;> decide

/-! ### The residue -/

/-- The byte 0 leaves a running CRC of 0 as it is. -/
theorem crcByte_zero_zero : crcByte 0 0#8 = 0#16 := by decide

/-- A byte equal to the low byte of the running CRC cancels it: what is left is the high byte, shifted down. -/
theorem crcByte_lowByte (c : Word) : crcByte c (c.setWidth 8) = c >>> 8 := by
  rw [crcByte_table, BitVec.xor_self, crcByte_zero_zero, BitVec.xor_zero]

theorem hiByte_eq_setWidth_shift (v : Word) : hiByte v = (v >>> 8).setWidth 8 := rfl

/-- Settles O8: the low byte of the CRC leaves its high byte, and that byte cancels it in turn. -/
theorem crcResidueIsZero : Obligations.CrcResidueIsZero := by
  intro x
  generalize hc : crc16 x = c
  calc crc16 (x ++ [loByte c, hiByte c])
      = crcByte (crcByte c (c.setWidth 8)) ((c >>> 8).setWidth 8) := by
        rw [crc16_append, hc, loByte_eq_setWidth, hiByte_eq_setWidth_shift]; rfl
    _ = (c >>> 8) >>> 8 := by rw [crcByte_lowByte, crcByte_lowByte]
    _ = 0 := by apply BitVec.eq_of_getLsbD_eq; intro i hi; simp

/-! ### The steps are bijections -/

/-- The bit step is linear and only 0 goes to 0, so it is injective (R105 (e)). -/
theorem crcBit_injective : Function.Injective crcBit := by
  intro x y h
  have h0 : crcBit (x ^^^ y) = 0 := by rw [crcBit_xor, h, BitVec.xor_self]; rfl
  exact BitVec.xor_eq_zero_iff.mp (crcBit_eq_zero h0)

theorem crcBits_injective (n : Nat) : Function.Injective (crcBits n) := by
  induction n with
  | zero => exact fun _ _ h => h
  | succ n ih => exact ih.comp crcBit_injective

/-- For a fixed byte, different running CRCs stay different (R105 (e)). -/
theorem crcByte_injective_crc (b : Byte) : Function.Injective fun c => crcByte c b := fun _ _ h =>
  (BitVec.xor_left_inj _).mp (crcBits_injective 8 h)

/-- For a fixed running CRC, different bytes give different CRCs (R105 (e)). -/
theorem crcByte_injective_byte (c : Word) : Function.Injective (crcByte c) := by
  intro b b' h
  have hz : b.zeroExtend 16 = b'.zeroExtend 16 := (BitVec.xor_right_inj c).mp (crcBits_injective 8 h)
  simpa using congrArg (BitVec.setWidth 8) hz

/-- Settles O9: an injective map of the finitely many words to themselves is a bijection. -/
theorem crcStepsAreBijective : Obligations.CrcStepsAreBijective :=
  ⟨Finite.injective_iff_bijective.mp crcBit_injective,
    fun b => Finite.injective_iff_bijective.mp (crcByte_injective_crc b),
    fun c _ _ => (crcByte_injective_byte c).ne⟩

/-- Different running CRCs stay different along any bytes (R105 (e)). -/
theorem foldl_crcByte_injective (y : List Byte) : Function.Injective fun c => y.foldl crcByte c := by
  induction y with
  | nil => exact fun _ _ h => h
  | cons b y ih => exact ih.comp (crcByte_injective_crc b)

/-- Settles O10: the running CRCs differ after the changed byte and stay different along the rest. -/
theorem oneChangedByteChangesTheCrc : Obligations.OneChangedByteChangesTheCrc := by
  intro x y b b' hb
  rw [crc16_append, crc16_append]
  exact (foldl_crcByte_injective y).ne ((crcByte_injective_byte (crc16 x)).ne hb)

/-! ### The command `CRC16` -/

theorem crc16Check_eq_ok {fbv : Bool} {s : State} (h : fbv = true → s.len.toNat ≤ 256) : crc16Check fbv s = .ok := by
  rcases crc16Check_cases fbv s with ⟨hok, -⟩ | ⟨-, hfbv, -, hlen⟩
  · exact hok
  · exact absurd (h hfbv) (Nat.not_le.mpr hlen)

theorem crc16Check_eq_illegalCommand {fbv : Bool} {s : State} (hfbv : fbv = true) (hlen : 256 < s.len.toNat) :
    crc16Check fbv s = .illegalCommand := by
  rcases crc16Check_cases fbv s with ⟨-, h | h | h⟩ | ⟨hill, -⟩
  · simp [hfbv] at h
  · simp [h] at hlen
  · omega
  · exact hill

/-- `CRC16` is its check, then its result (R103). -/
theorem exec_crc16 (fbv : Bool) (s : State) :
    exec (.crc16 fbv) s = .next (s.conclude (crc16Check fbv s) fun t => t.finish .ok (crc16Result fbv s)) := rfl

theorem exec_crc16_of_ok {fbv : Bool} {s : State} (h : fbv = true → s.len.toNat ≤ 256) :
    exec (.crc16 fbv) s = .next (s.finish .ok (crc16Result fbv s)) := by
  rw [exec_crc16, crc16Check_eq_ok h, State.conclude_ok]

/-- Settles O11: `selects_commandOf` at opcode 1; then the check of `CRC16`, and its result where that passes. -/
theorem crc16CommandResult : Obligations.Crc16CommandResult := by
  refine ⟨selects_commandOf 0x1, fun fbv s => ⟨fun h => ?_, fun hfbv hlen => ?_, fun hfbv h1 h256 => ?_⟩⟩
  · have hok : fbv = true → s.len.toNat ≤ 256 := by
      rintro rfl
      have h0 : s.len.toNat = 0 := h.resolve_left nofun
      omega
    have hres : crc16Result fbv s = 0xFFFF := by
      rw [crc16Result, if_pos (h.imp_right BitVec.eq_of_toNat_eq)]
    rw [exec_crc16_of_ok hok, hres]; rfl
  · rw [exec_crc16, crc16Check_eq_illegalCommand hfbv hlen]; rfl
  · have hlen : s.len ≠ 0#16 := by rintro h0; simp [h0] at h1
    have hres : crc16Result fbv s = crc16 (s.fbBytes s.len.toNat) := by
      simp [crc16Result, hfbv, hlen]
    rw [exec_crc16_of_ok fun _ => h256, hres]; rfl

end Sys2Proof.Machine
end

section
/-! ## The Field Validator: the four predicate commands (41_field_validator.md R110 to R117) -/

namespace Sys2Proof.Machine

/-! ### The predicate commands -/

theorem exec_validQty (s : State) : exec .validQty s = .next (s.deliver (validQuantity s.qty)) := rfl

theorem exec_validBc (s : State) : exec .validBc s = .next (s.deliver (validByteCount s.bc)) := rfl

theorem exec_validSid (s : State) : exec .validSid s = .next (s.deliver (validSlaveId s.sid)) := rfl

theorem exec_validAddr (s : State) : exec .validAddr s = .next (s.deliver (validAddressRange s.addr s.qty)) := rfl

/-- What a predicate command delivers, once its boolean is known to decide `p`: `Ok`, 1 or 0 as `p` holds or not, and no other change (R30). -/
theorem State.deliver_of_iff (s : State) {b : Bool} {p : Prop} [Decidable p] (h : b = true ↔ p) :
    s.deliver b = { s with status := .ok, result := if p then 1 else 0 } := by
  have hword : boolWord b = if p then 1 else 0 := if_congr h rfl rfl
  rw [State.deliver_eq, hword]

/-- Settles O13: `selects_commandOf` at opcode 2; `VALID_QTY` delivers the predicate of `validQuantity_iff`. -/
theorem validQtyCommandResult : Obligations.ValidQtyCommandResult := by
  refine ⟨selects_commandOf 0x2, fun s => ?_⟩
  rw [exec_validQty, s.deliver_of_iff (validQuantity_iff s.qty)]

/-- Settles O14: `selects_commandOf` at opcode 3; `VALID_BC` delivers the predicate of `validByteCount_iff`. -/
theorem validBcCommandResult : Obligations.ValidBcCommandResult := by
  refine ⟨selects_commandOf 0x3, fun s => ?_⟩
  rw [exec_validBc, s.deliver_of_iff (validByteCount_iff s.bc)]

/-- Settles O15: `selects_commandOf` at opcode 4; `VALID_SID` delivers the predicate of `validSlaveId_iff`. -/
theorem validSidCommandResult : Obligations.ValidSidCommandResult := by
  refine ⟨selects_commandOf 0x4, fun s => ?_⟩
  rw [exec_validSid, s.deliver_of_iff (validSlaveId_iff s.sid)]

/-- Settles O16: `selects_commandOf` at opcode 5; `VALID_ADDR` delivers the predicate of `validAddressRange_iff`, the sum over the unbounded integers. -/
theorem validAddrCommandResult : Obligations.ValidAddrCommandResult := by
  refine ⟨selects_commandOf 0x5, fun s => ?_⟩
  rw [exec_validAddr, s.deliver_of_iff (validAddressRange_iff s.addr s.qty)]

end Sys2Proof.Machine
end

section
/-! ## The Master Codec: `ENC_REQ`, `DEC_RSP`, and the response round trip (42_master_codec.md R120 to R132) -/

namespace Sys2Proof.Machine

/-! ### Frames in FB -/

theorem State.fbRead_of_fbBytes {s : State} {n : Nat} {bs : List Byte} (h : s.fbBytes n = bs) {k : Nat} (hk : k < n) :
    bs[k]? = some (s.fbRead k) := by
  rw [← h, State.fbBytes_getElem?, if_pos hk]

/-- A state whose first bytes read as those of a sequence holds the sequence. -/
theorem State.fbBytes_eq_of_read {s : State} {bs : List Byte} (h : ∀ a, a < bs.length → s.fbRead a = bs.getD a 0) :
    s.fbBytes bs.length = bs := by
  apply List.ext_getElem?
  intro k
  rw [State.fbBytes_getElem?]
  split_ifs with hk
  · rw [h k hk, List.getD_eq_getElem _ _ hk, List.getElem?_eq_getElem hk]
  · rw [List.getElem?_eq_none (Nat.le_of_not_lt hk)]

/-- A sequence with its CRC appended, held in FB: the sequence, then its CRC low byte first (R53). -/
theorem State.fbBytes_withCrc {s : State} {bs : List Byte} (h : s.fbBytes (bs.length + 2) = withCrc bs) :
    s.fbBytes bs.length = bs ∧ s.le16 bs.length = crc16 bs := by
  rw [State.fbBytes_succ, State.fbBytes_succ, List.append_assoc, withCrc] at h
  obtain ⟨hbody, hcrc⟩ := List.append_inj h (s.fbBytes_length _)
  obtain ⟨hlo, hhi⟩ : s.fbRead bs.length = loByte (crc16 bs) ∧ s.fbRead (bs.length + 1) = hiByte (crc16 bs) := by
    simpa using hcrc
  exact ⟨hbody, by rw [State.le16, hlo, hhi, joinBytes_hiByte_loByte]⟩

/-! ### `ENC_REQ` and `ENC_RSP` -/

/-- `ENC_REQ` is its checks, then its effect (R120). -/
theorem exec_encReq (f : Bool) (s : State) :
    exec (.encReq f) s = .next (s.conclude (encReqCheck f s) encReqEffect) := rfl

theorem exec_encReq_of_ok {f : Bool} {s : State} (h : encReqCheck f s = .ok) :
    exec (.encReq f) s = .next (encReqEffect s) := by
  rw [exec_encReq, h, State.conclude_ok]

theorem exec_encReq_of_not_ok {f : Bool} {s : State} (h : encReqCheck f s ≠ .ok) :
    exec (.encReq f) s = .next { s with status := .encodeFail, result := 0 } := by
  rw [exec_encReq, (encReqCheck_cases f s).resolve_left h]; rfl

/-- `ENC_RSP` is its checks, then its effect (R155). -/
theorem exec_encRsp (f r : Bool) (s : State) :
    exec (.encRsp f r) s = .next (s.conclude (encRspCheck f r s) encRspEffect) := rfl

theorem exec_encRsp_of_ok {f r : Bool} {s : State} (h : encRspCheck f r s = .ok) :
    exec (.encRsp f r) s = .next (encRspEffect s) := by
  rw [exec_encRsp, h, State.conclude_ok]

theorem exec_encRsp_of_not_ok {f r : Bool} {s : State} (h : encRspCheck f r s ≠ .ok) :
    exec (.encRsp f r) s = .next { s with status := .encodeFail, result := 0 } := by
  rw [exec_encRsp, (encRspCheck_cases f r s).resolve_left h]; rfl

/-- A command that ended in `Ok` had its checks pass (R173). -/
theorem State.conclude_eq_effect {s t : State} {e : Err} {eff : State → State}
    (h : (.next (s.conclude e eff) : Host.Outcome State Fault Refusal) = .next t) (hok : t.status = .ok) :
    e = .ok ∧ t = eff s := by
  obtain rfl := Host.Outcome.next.inj h
  rcases State.conclude_cases s e eff with ⟨he, hc⟩ | ⟨he, hc⟩
  · exact ⟨he, hc⟩
  · rw [hc] at hok
    exact absurd hok he

theorem encReqEffect_fbBytes (s : State) : (encReqEffect s).fbBytes 8 = reqFrame s.sid s.addr s.qty :=
  State.fbBytes_eq_of_read (bs := reqFrame s.sid s.addr s.qty) fun a ha => by
    rw [encReqEffect_read]; exact if_pos ha

theorem rspFrame_rbWords_length (s : State) (v : Byte) (q : Nat) : (rspFrame v (s.rbWords q)).length = 5 + 2 * q := by
  rw [rspFrame_length, State.rbWords_length]

theorem encRspEffect_fbBytes {s : State} (hq : s.qty.toNat ≤ 125) :
    (encRspEffect s).fbBytes (5 + 2 * s.qty.toNat) = rspFrame s.sid (s.rbWords s.qty.toNat) := by
  rw [← rspFrame_rbWords_length s s.sid]
  apply State.fbBytes_eq_of_read
  intro a ha
  rw [rspFrame_rbWords_length] at ha
  rw [encRspEffect_read s hq, if_pos ha]

/-- Settles O17: `selects_commandOf` at opcode 6; the hypothesis is that of `encReqCheck_ok_iff`, and where it holds the effect of `ENC_REQ` is known field by field and byte by byte. -/
theorem encReqEncodesOrFails : Obligations.EncReqEncodesOrFails := by
  refine ⟨selects_commandOf 0x6, fun f s => ?_⟩
  have hok := encReqCheck_ok_iff f s
  rw [and_assoc] at hok
  refine ⟨fun h => ?_, fun h => exec_encReq_of_not_ok fun hc => h (hok.mp hc)⟩
  refine ⟨_, exec_encReq_of_ok (hok.mpr h), encReqEffect_eq s, encReqEffect_fbBytes s, fun a ha => ?_⟩
  rw [encReqEffect_read, if_neg ha]

/-- Settles O18: `LEN` is asked to be 6 only, and bytes 6 and 7 of the frame written are those of the CRC. -/
theorem encReqOverrunsASmallCapacity : Obligations.EncReqOverrunsASmallCapacity := by
  intro s hq hq' hsid haddr
  have hok := encReqCheck_ok_iff true s
  refine ⟨fun hlen => exec_encReq_of_not_ok fun hc => ?_, fun hlen => ?_⟩
  · obtain ⟨-, hlen', -⟩ := hok.mp hc
    omega
  · refine ⟨_, exec_encReq_of_ok (hok.mpr ⟨rfl, hlen, ⟨hq, hq'⟩, hsid, haddr⟩), ?_, ?_, ?_, ?_⟩
    · rw [encReqEffect_eq]
    · rw [encReqEffect_eq]
    · rw [encReqEffect_read]; rfl
    · rw [encReqEffect_read]; rfl

/-- The length of a response is odd, so as a result it is not 0 (R77, R155). -/
theorem encRspEffect_result_ne_zero (s : State) : (encRspEffect s).result ≠ 0#16 := by
  rw [encRspEffect_eq]
  intro h
  have h0 : (5 + 2 * s.qty.toNat) % 65536 = 0 := by simpa using congrArg BitVec.toNat h
  omega

/-- Settles O44: an encoder ends in `EncodeFail` with 0, or in `Ok` with the length of its frame. -/
theorem encoderResultZeroTellsFailure : Obligations.EncoderResultZeroTellsFailure := by
  rintro i s t (⟨f, rfl⟩ | ⟨f, r, rfl⟩) h
  · rcases encReqCheck_cases f s with hc | hc
    · rw [exec_encReq_of_ok hc, Host.Outcome.next.injEq] at h
      rw [← h, encReqEffect_eq]
      simp
    · rw [exec_encReq_of_not_ok (by simp [hc]), Host.Outcome.next.injEq] at h
      simp [← h]
  · rcases encRspCheck_cases f r s with hc | hc
    · have hres := encRspEffect_result_ne_zero s
      have hst : (encRspEffect s).status = .ok := by rw [encRspEffect_eq]
      rw [exec_encRsp_of_ok hc, Host.Outcome.next.injEq] at h
      simp [← h, hres, hst]
    · rw [exec_encRsp_of_not_ok (by simp [hc]), Host.Outcome.next.injEq] at h
      simp [← h]

/-! ### The checks of `DEC_RSP` -/

/-- `DEC_RSP` is its checks, then its effect (R125). -/
theorem exec_decRsp (f r : Bool) (s : State) :
    exec (.decRsp f r) s = .next (s.conclude (decRspCheck f r s) decRspEffect) := rfl

theorem exec_decRsp_of_ok {f r : Bool} {s : State} (h : decRspCheck f r s = .ok) :
    exec (.decRsp f r) s = .next (decRspEffect s) := by
  rw [exec_decRsp, h, State.conclude_ok]

theorem exec_decRsp_of_error {f r : Bool} {s : State} {e : Err} (h : decRspCheck f r s = e) (he : e ≠ .ok) :
    exec (.decRsp f r) s = .next { s with status := e, result := 0 } := by
  rw [exec_decRsp, h, State.conclude_error s he, State.fail_eq]

/-- The checks in the numbers of R125, each as a proposition about FB and the operand registers. -/
theorem decRspCheck_eq (f r : Bool) (s : State) :
    decRspCheck f r s =
      if f = false ∨ r = false then .invalidArgument
      else if s.fbRead 0 ≠ s.lastreq then .slaveMismatch
      else if s.fbRead 1 ≠ 0x03 then .functionMismatch
      else if ¬ (2 ≤ (s.fbRead 2).toNat ∧ (s.fbRead 2).toNat ≤ 250) then .invalidByteCount
      else if s.len.toNat < (s.fbRead 2).toNat + 5 then .bufferTooSmall
      else if s.ocap.toNat < (s.fbRead 2).toNat / 2 then .outputTooSmall
      else if crc16 (s.fbBytes (3 + (s.fbRead 2).toNat)) ≠ s.le16 (3 + (s.fbRead 2).toNat) then .integrityError
      else .ok := by
  have hlen : Config.rspHdrLen + rspByteCount s + Config.crcLen = (s.fbRead 2).toNat + 5 := by
    simp only [rspByteCount, Config.rspHdrLen, Config.crcLen]; omega
  simp only [decRspCheck, hlen, ← Bool.not_eq_true, validByteCount_iff, crcMatches_iff]
  rfl

theorem decRspEffect_read (s : State) (i : Nat) :
    (decRspEffect s).rbRead i = if i < (s.fbRead 2).toNat / 2 then s.be16 (3 + 2 * i) else s.rbRead i := by
  rw [decRspEffect, State.rbRead_finish, State.rbRead_takeRegs, rspRegCount, rspByteCount]

@[simp] theorem fbRead_decRspEffect (s : State) (a : Nat) : (decRspEffect s).fbRead a = s.fbRead a := by
  simp [decRspEffect]

/-- Settles O19: `selects_commandOf` at opcode 7; along the checks of `decRspCheck_eq`, then the effect of `DEC_RSP` word by word. -/
theorem decRspFirstFailingCheckOrRegisters : Obligations.DecRspFirstFailingCheckOrRegisters := by
  refine ⟨selects_commandOf 0x7, fun f r s h => exec_decRsp_of_error (if_pos h) nofun, ?_⟩
  rintro s bc n rfl rfl
  have hcheck := decRspCheck_eq true true s
  rw [if_neg (by simp)] at hcheck
  refine ⟨fun h0 => exec_decRsp_of_error (hcheck.trans (if_pos h0)) nofun, fun h0 => ?_⟩
  rw [if_neg (not_not.mpr h0)] at hcheck
  refine ⟨fun h1 => exec_decRsp_of_error (hcheck.trans (if_pos h1)) nofun, fun h1 => ?_⟩
  rw [if_neg (not_not.mpr h1)] at hcheck
  refine ⟨fun h2 => exec_decRsp_of_error (hcheck.trans (if_pos h2)) nofun, fun h2 h2' => ?_⟩
  rw [if_neg (not_not.mpr ⟨h2, h2'⟩)] at hcheck
  refine ⟨fun hlen => exec_decRsp_of_error (hcheck.trans (if_pos hlen)) nofun, fun hlen => ?_⟩
  rw [if_neg (Nat.not_lt.mpr hlen)] at hcheck
  refine ⟨fun hcap => exec_decRsp_of_error (hcheck.trans (if_pos hcap)) nofun, fun hcap => ?_⟩
  rw [if_neg (Nat.not_lt.mpr hcap), State.le16, show 3 + (s.fbRead 2).toNat + 1 = 4 + (s.fbRead 2).toNat by omega] at hcheck
  refine ⟨fun hcrc => exec_decRsp_of_error (hcheck.trans (if_pos hcrc)) nofun, fun hcrc => ?_⟩
  rw [if_neg (not_not.mpr hcrc)] at hcheck
  refine ⟨_, exec_decRsp_of_ok hcheck, decRspEffect_eq s, fun i hi => ?_, fun i hi => ?_⟩
  · rw [decRspEffect_read, if_pos hi, State.be16, show 3 + 2 * i + 1 = 4 + 2 * i by omega]
  · rw [decRspEffect_read, if_neg hi]

/-- Settles O20: below 7 is below the frame length of every valid byte count, so the length check fails if the header checks pass. -/
theorem decRspWithShortLengthIsAnError : Obligations.DecRspWithShortLengthIsAnError := by
  intro s hlen
  obtain ⟨-, -, hchecks⟩ := decRspFirstFailingCheckOrRegisters
  obtain ⟨hslave, hchecks⟩ := hchecks s _ _ rfl rfl
  by_cases h0 : s.fbRead 0 = s.lastreq
  · obtain ⟨hfunction, hchecks⟩ := hchecks h0
    by_cases h1 : s.fbRead 1 = 0x03
    · obtain ⟨hbytes, hchecks⟩ := hchecks h1
      by_cases h2 : 2 ≤ (s.fbRead 2).toNat ∧ (s.fbRead 2).toNat ≤ 250
      · obtain ⟨hge, hle⟩ := h2
        obtain ⟨hshort, -⟩ := hchecks hge hle
        exact ⟨_, hshort (by omega), by simp, fun _ _ _ _ => rfl⟩
      · exact ⟨_, hbytes h2, by simp, fun _ _ hge hle => absurd ⟨hge, hle⟩ h2⟩
    · exact ⟨_, hfunction h1, by simp, fun _ h => absurd h h1⟩
  · exact ⟨_, hslave h0, by simp, fun h => absurd h h0⟩

/-! ### What `DEC_RSP` reads -/

/-- A command whose effect does the same on another FB, which it keeps, ends the same on it. -/
theorem State.conclude_withFb {s : State} {m : FrameBuffer} {eff : State → State}
    (heff : eff { s with fb := m } = { eff s with fb := m }) (e : Err) :
    ({ s with fb := m } : State).conclude e eff = { s.conclude e eff with fb := m } := by
  rcases State.conclude_cases s e eff with ⟨rfl, h⟩ | ⟨he, h⟩
  · rw [h, State.conclude_ok, heff]
  · rw [h, State.conclude_error _ he]; rfl

/-- The decoding loop reads no byte of FB but those of its registers (R125). -/
theorem State.takeRegs_withFb {s : State} {m : FrameBuffer} {n : Nat}
    (h : ∀ a, a < 3 + 2 * n → ({ s with fb := m } : State).fbRead a = s.fbRead a) :
    ({ s with fb := m } : State).takeRegs n = { s.takeRegs n with fb := m } := by
  induction n with
  | zero => rfl
  | succ k ih =>
    have hbe : ({ s with fb := m } : State).be16 (3 + 2 * k) = s.be16 (3 + 2 * k) :=
      State.be16_congr (h _ (by omega)) (h _ (by omega))
    have hloop : ∀ u : State, u.takeRegs (k + 1) = (u.takeRegs k).rbWrite k (u.be16 (3 + 2 * k)) := by
      intro u
      rw [State.takeRegs, State.be16_congr (u.fbRead_takeRegs k _) (u.fbRead_takeRegs k _)]
    rw [hloop, hloop, hbe, ih fun a ha => h a (by omega)]
    rfl

/-- Settles O21: every check reads inside the frame, and so does the decoding loop. -/
theorem decRspReadsOnlyTheFrame : Obligations.DecRspReadsOnlyTheFrame := by
  intro f r s m h
  have hcheck : decRspCheck f r { s with fb := m } = decRspCheck f r s := by
    rw [decRspCheck_eq, decRspCheck_eq, h 0 (by omega), h 1 (by omega), h 2 (by omega),
      State.fbBytes_congr fun a ha => h a (by omega), State.le16_congr (h _ (by omega)) (h _ (by omega))]
  have heff : decRspEffect { s with fb := m } = { decRspEffect s with fb := m } := by
    rw [decRspEffect, rspRegCount, rspByteCount, h 2 (by omega), State.takeRegs_withFb fun a ha => h a (by omega)]
    rfl
  refine ⟨_, exec_decRsp f r s, ?_⟩
  rw [exec_decRsp, hcheck, State.conclude_withFb heff]

/-- Settles O22: the checks read neither RB nor the outcome, so they pass again, and the same words are delivered. -/
theorem decRspTwiceGivesTheSameResult : Obligations.DecRspTwiceGivesTheSameResult := by
  intro s t h hst
  obtain ⟨hok, rfl⟩ := State.conclude_eq_effect h hst
  have hlast : ∀ v : State, (decRspEffect v).lastreq = v.lastreq := fun v => by rw [decRspEffect_eq]
  have hagain : decRspCheck true true (decRspEffect s) = .ok := by rw [decRspEffect_eq]; exact hok
  refine ⟨hlast s, _, exec_decRsp_of_ok hagain, by rw [decRspEffect_eq], ?_, by rw [hlast, hlast], fun i => ?_, by simp⟩
  · rw [decRspEffect_eq (decRspEffect s), decRspEffect_eq s]; rfl
  · rw [decRspEffect_read (decRspEffect s), fbRead_decRspEffect,
      State.be16_congr (fbRead_decRspEffect s _) (fbRead_decRspEffect s _), decRspEffect_read]
    split_ifs <;> rfl

/-! ### The response round trip -/

/-- The payload of a response word by word (R52, R75). -/
theorem rspBody_getElem? (v : Byte) {regs : List Word} {i : Nat} {w : Word} (h : regs[i]? = some w) :
    (rspBody v regs)[3 + 2 * i]? = some (hiByte w) ∧ (rspBody v regs)[3 + 2 * i + 1]? = some (loByte w) := by
  have hskip : ∀ k, (rspBody v regs)[3 + k]? = (regBytes regs)[k]? := fun k => by
    rw [rspBody, List.getElem?_append_right (Nat.le_add_right 3 k)]
    simp
  rw [hskip, Nat.add_assoc, hskip, regBytes_getElem?, regBytes_getElem?]
  simp [show (2 * i + 1) / 2 = i by omega, h]

@[simp] theorem rspBody_length (v : Byte) (regs : List Word) : (rspBody v regs).length = 3 + 2 * regs.length := by
  simp [rspBody]; omega

section
variable {u : State} {v : Byte} {regs : List Word} (hframe : u.fbBytes (5 + 2 * regs.length) = rspFrame v regs)
include hframe

/-- A response held in FB: its header and payload, then their CRC (R75). -/
theorem fbBytes_of_rspFrame :
    u.fbBytes (3 + 2 * regs.length) = rspBody v regs ∧ u.le16 (3 + 2 * regs.length) = crc16 (rspBody v regs) := by
  rw [← rspBody_length v regs]
  apply State.fbBytes_withCrc
  rw [rspBody_length, show 3 + 2 * regs.length + 2 = 5 + 2 * regs.length by omega]
  exact hframe

/-- Its three header bytes (R75). -/
theorem fbRead_header_of_rspFrame :
    u.fbRead 0 = v ∧ u.fbRead 1 = 0x03 ∧ u.fbRead 2 = BitVec.ofNat 8 (2 * regs.length) := by
  obtain ⟨hbody, -⟩ := fbBytes_of_rspFrame hframe
  have hread : ∀ k, k < 3 → (rspBody v regs)[k]? = some (u.fbRead k) := fun k hk =>
    State.fbRead_of_fbBytes hbody (by omega)
  exact ⟨(Option.some.inj (hread 0 (by omega))).symm, (Option.some.inj (hread 1 (by omega))).symm,
    (Option.some.inj (hread 2 (by omega))).symm⟩

/-- Its registers in order (R52, R75). -/
theorem be16_of_rspFrame {i : Nat} {w : Word} (hw : regs[i]? = some w) : u.be16 (3 + 2 * i) = w := by
  obtain ⟨hi, -⟩ := List.getElem?_eq_some_iff.mp hw
  obtain ⟨hbody, -⟩ := fbBytes_of_rspFrame hframe
  obtain ⟨hhi, hlo⟩ := rspBody_getElem? v hw
  rw [State.fbRead_of_fbBytes hbody (by omega), Option.some.injEq] at hhi hlo
  rw [State.be16, hhi, hlo, joinBytes_hiByte_loByte]

/-- Its byte count as a number: it fits in a byte (R75). -/
theorem byteCount_of_rspFrame (hq : regs.length ≤ 125) : (u.fbRead 2).toNat = 2 * regs.length := by
  obtain ⟨-, -, h2⟩ := fbRead_header_of_rspFrame hframe
  rw [h2, BitVec.toNat_ofNat, Nat.mod_eq_of_lt (by omega)]

/-- The master that asked for it, with room for it, accepts it (R125). -/
theorem decRspCheck_of_rspFrame (hq : 1 ≤ regs.length) (hq' : regs.length ≤ 125) (hlast : u.lastreq = v)
    (hlen : 5 + 2 * regs.length ≤ u.len.toNat) (hcap : regs.length ≤ u.ocap.toNat) :
    decRspCheck true true u = .ok := by
  obtain ⟨hbody, hcrc⟩ := fbBytes_of_rspFrame hframe
  obtain ⟨h0, h1, -⟩ := fbRead_header_of_rspFrame hframe
  rw [decRspCheck_ok_iff, byteCount_of_rspFrame hframe hq', hbody, hcrc]
  exact ⟨rfl, rfl, h0.trans hlast.symm, h1, by omega, by omega, by omega, rfl⟩

end

/-- Settles O29: `ENC_RSP` left the response frame of its registers, every check of `DEC_RSP` passes on it, and its payload is the registers in order. -/
theorem responseRoundTrip : Obligations.ResponseRoundTrip := by
  intro s t h hst u hu hlast hlen hcap
  obtain ⟨hc, rfl⟩ := State.conclude_eq_effect h hst
  obtain ⟨-, -, ⟨hq, hq'⟩, -⟩ := (encRspCheck_ok_iff true true s).mp hc
  have hregs : (s.rbWords s.qty.toNat).length = s.qty.toNat := s.rbWords_length _
  have hframe : u.fbBytes (5 + 2 * (s.rbWords s.qty.toNat).length) = rspFrame s.sid (s.rbWords s.qty.toNat) := by
    rw [hregs, State.fbBytes_congr hu, encRspEffect_fbBytes hq']
  have hok : decRspCheck true true u = .ok :=
    decRspCheck_of_rspFrame hframe (by omega) (by omega) hlast (by omega) (by omega)
  have hn : (u.fbRead 2).toNat / 2 = s.qty.toNat := by
    rw [byteCount_of_rspFrame hframe (by omega)]; omega
  refine ⟨_, exec_decRsp_of_ok hok, by rw [decRspEffect_eq], ?_, fun i hi => ?_⟩
  · rw [decRspEffect_eq, rspRegCount, rspByteCount, hn]
    simp
  · rw [decRspEffect_read, hn, if_pos hi]
    exact be16_of_rspFrame hframe (by simp [State.rbWords, hi])

end Sys2Proof.Machine
end

section
/-! ## The Device Identity: `SET_ID`, and who reads and sees `DEVID` (43_device_identity.md R140 to R142) -/

namespace Sys2Proof.Machine

/-! ### `SET_ID` -/

theorem exec_setId (s : State) :
    exec .setId s = .next (s.conclude (setIdCheck s) fun t => (t.setDevid t.sid).finish .ok 0) := rfl

/-- `SET_ID` stores an id in 1..247 (R140). -/
theorem exec_setId_of_valid {s : State} (h1 : 1 ≤ s.sid.toNat) (h247 : s.sid.toNat ≤ 247) :
    exec .setId s = .next ((s.setDevid s.sid).finish .ok 0) := by
  rcases setIdCheck_cases s with ⟨hc, -⟩ | ⟨-, hbad⟩
  · rw [exec_setId, hc, State.conclude_ok]
  · omega

/-- `SET_ID` rejects every other id (R140). -/
theorem exec_setId_of_invalid {s : State} (h : s.sid.toNat = 0 ∨ 248 ≤ s.sid.toNat) :
    exec .setId s = .next (s.fail .invalidArgument) := by
  rcases setIdCheck_cases s with ⟨-, hgood⟩ | ⟨hc, -⟩
  · omega
  · rw [exec_setId, hc, State.conclude_error s (by decide)]

/-- No command clears an identity back to 0: a command that changes `DEVID` stores an id in 1..247 (R25, R140). -/
theorem exec_devid_ne_zero {i : Instr} {s t : State} (h : exec i s = .next t) (hd : s.devid ≠ 0) : t.devid ≠ 0 := by
  obtain ⟨hkeep, -⟩ := hiddenBytesHaveOneWriterEach i s t h
  by_cases hset : i = .setId ∧ t.status = .ok
  · obtain ⟨rfl, hstatus⟩ := hset
    rcases setIdCheck_cases s with ⟨-, h1, h247⟩ | ⟨-, hbad⟩
    · rw [exec_setId_of_valid h1 h247] at h
      cases h
      rintro (h0 : s.sid = 0)
      simp [h0] at h1
    · rw [exec_setId_of_invalid hbad] at h
      cases h
      cases hstatus
  · rwa [hkeep hset]

/-- Settles O23: `selects_commandOf` at opcode 8, the two outcomes of `SET_ID`, and `exec_devid_ne_zero`. -/
theorem setIdStoresOrRejects : Obligations.SetIdStoresOrRejects :=
  ⟨selects_commandOf 0x8, fun _ => ⟨exec_setId_of_valid, exec_setId_of_invalid, fun _ _ => exec_devid_ne_zero⟩⟩

/-! ### Which command reads `DEVID` -/

/-- The end of a command commutes with a change `g` of the state that leaves its checks alone, if its effect and an error do. -/
theorem State.conclude_commute {s : State} {g eff : State → State} (heff : eff (g s) = g (eff s))
    (hfail : ∀ e, (g s).fail e = g (s.fail e)) (e : Err) : (g s).conclude e eff = g (s.conclude e eff) := by
  rcases State.conclude_cases s e eff with ⟨rfl, h⟩ | ⟨he, h⟩
  · rw [h, State.conclude_ok, heff]
  · rw [h, State.conclude_error _ he, hfail]

/-- A command whose checks do not read `DEVID` and whose effect keeps it keeps it. -/
theorem State.conclude_setDevid {s : State} {d : Byte} {eff : State → State}
    (heff : eff (s.setDevid d) = (eff s).setDevid d) (e : Err) :
    (s.setDevid d).conclude e eff = (s.conclude e eff).setDevid d :=
  State.conclude_commute (g := (·.setDevid d)) heff (fun _ => rfl) e

/-- `ENC_REQ` neither reads nor writes `DEVID` (R120). -/
theorem encReqEffect_setDevid (s : State) (d : Byte) : encReqEffect (s.setDevid d) = (encReqEffect s).setDevid d :=
  encReqEffect_upd s s.status s.result d s.lastreq

/-- `ENC_RSP` neither reads nor writes `DEVID` (R155). -/
theorem encRspEffect_setDevid (s : State) (d : Byte) : encRspEffect (s.setDevid d) = (encRspEffect s).setDevid d := by
  have h : encRspEffect (s.setDevid d) = { encRspEffect s with devid := d, lastreq := s.lastreq } :=
    encRspEffect_upd s s.status s.result d s.lastreq
  rw [h, encRspEffect_eq]; rfl

/-- `DEC_RSP` neither reads nor writes `DEVID` (R125). -/
theorem decRspEffect_setDevid (s : State) (d : Byte) : decRspEffect (s.setDevid d) = (decRspEffect s).setDevid d := by
  have h : decRspEffect (s.setDevid d) = { decRspEffect s with devid := d, lastreq := s.lastreq } :=
    decRspEffect_upd s s.status s.result d s.lastreq
  rw [h, decRspEffect_eq]; rfl

/-- `SET_ID` does not read `DEVID`: on success it overwrites the difference, on failure it keeps it (R140). -/
theorem exec_setId_setDevid (s : State) (d : Byte) :
    ∃ t d', exec .setId s = .next t ∧ exec .setId (s.setDevid d) = .next (t.setDevid d') := by
  rcases setIdCheck_cases s with ⟨-, h1, h247⟩ | ⟨-, hbad⟩
  · exact ⟨_, s.sid, exec_setId_of_valid h1 h247, exec_setId_of_valid (s := s.setDevid d) h1 h247⟩
  · exact ⟨_, d, exec_setId_of_invalid hbad, exec_setId_of_invalid (s := s.setDevid d) hbad⟩

/-- Of the commands only `DEC_REQ` reads `DEVID` (R141): `SET_ID` may lose the difference, every other keeps it. -/
theorem exec_setDevid {i : Instr} (hi : ∀ fbv, i ≠ .decReq fbv) (s : State) (d : Byte) :
    ∃ t d', exec i s = .next t ∧ exec i (s.setDevid d) = .next (t.setDevid d') := by
  cases i with
  | decReq f => exact absurd rfl (hi f)
  | setId => exact exec_setId_setDevid s d
  | crc16 f => exact ⟨_, d, rfl, congrArg _ (State.conclude_setDevid rfl (crc16Check f s))⟩
  | encReq f => exact ⟨_, d, rfl, congrArg _ (State.conclude_setDevid (encReqEffect_setDevid s d) (encReqCheck f s))⟩
  | encRsp f r => exact ⟨_, d, rfl, congrArg _ (State.conclude_setDevid (encRspEffect_setDevid s d) (encRspCheck f r s))⟩
  | decRsp f r => exact ⟨_, d, rfl, congrArg _ (State.conclude_setDevid (decRspEffect_setDevid s d) (decRspCheck f r s))⟩
  | _ => exact ⟨_, d, rfl, rfl⟩

/-- Settles O40: a different `DEVID` is `setDevid`, which `exec_setDevid` carries through every command but `DEC_REQ`. -/
theorem onlyDecReqReadsDeviceIdentity : Obligations.OnlyDecReqReadsDeviceIdentity :=
  fun _ s d hi => exec_setDevid hi s d

/-! ### What the host sees of the hidden bytes -/

/-- The state with other values of the two hidden bytes (R25, R26). -/
def State.withHidden (s : State) (d l : Byte) : State := { s with devid := d, lastreq := l }

/-- No register shows a hidden byte (R32, R142). -/
theorem State.readIndex_withHidden (s : State) (i : Nat) (d l : Byte) :
    (s.withHidden d l).readIndex i = s.readIndex i := by
  unfold State.readIndex
  cases regAt i with
  | none => rfl
  | some r => cases r <;> rfl

/-- No register write meets a hidden byte (R32, R142). -/
theorem State.writeIndex_withHidden (s : State) (i : Nat) (v : Word) (d l : Byte) :
    (s.withHidden d l).writeIndex i v = (s.writeIndex i v).withHidden d l := by
  unfold State.writeIndex
  cases regAt i with
  | none => rfl
  | some r => cases r <;> rfl

/-- An admitted host move that starts no command neither shows nor changes the hidden bytes (R25, R26, R142). -/
theorem hostMove_withHidden {m : HostMove} (hwf : m.wf = true) (hcmd : ∀ w, m ≠ .regWrite 0 w) (s : State) (d l : Byte) :
    ∃ t, hostMove m s = .settled (.next t) ∧ hostMove m (s.withHidden d l) = .settled (.next (t.withHidden d l)) := by
  cases m with
  | regWrite i v =>
    have hi : i < regCount := of_decide_eq_true hwf
    have h0 : i ≠ 0 := fun h0 => hcmd v (by rw [h0])
    have hmove : ∀ u, hostMove (.regWrite i v) u = .settled (.next (u.writeIndex i v)) := fun u => by
      rw [hostMove, if_pos hi, if_neg h0]
    exact ⟨_, hmove s, by rw [hmove, State.writeIndex_withHidden]⟩
  | regRead i =>
    have hmove : ∀ u, hostMove (.regRead i) u = .settled (.next (u.reply (.word (u.readIndex i)))) :=
      fun _ => if_pos (of_decide_eq_true hwf)
    exact ⟨_, hmove s, by rw [hmove, State.readIndex_withHidden]; rfl⟩
  | fbWrite a v => exact ⟨_, if_pos (of_decide_eq_true hwf), if_pos (of_decide_eq_true hwf)⟩
  | fbRead a => exact ⟨_, if_pos (of_decide_eq_true hwf), if_pos (of_decide_eq_true hwf)⟩
  | rbWrite i v => exact ⟨_, if_pos (of_decide_eq_true hwf), if_pos (of_decide_eq_true hwf)⟩
  | rbRead i => exact ⟨_, if_pos (of_decide_eq_true hwf), if_pos (of_decide_eq_true hwf)⟩

/-- A step that takes a host move ends in a next state only if the move was admitted (R51). -/
theorem hostMove_wf_of_step {s t : State} {m : HostMove} {rest : List Input} (hs : s.inputs = .host m :: rest)
    (h : step s = .next t) : m.wf = true := by
  rcases step_cases h with ⟨hnil, -⟩ | ⟨x, rest', hx, hwf, -⟩
  · simp [hnil] at hs
  · rw [hs] at hx
    cases hx
    exact hwf

/-- Settles O42: the step takes an admitted move, and `hostMove_withHidden` gives its next state with either hidden bytes. -/
theorem hostMovesDoNotShowHiddenBytes : Obligations.HostMovesDoNotShowHiddenBytes := by
  intro s t m rest d l hs hcmd h
  obtain ⟨u, hu, hu'⟩ := hostMove_withHidden (hostMove_wf_of_step hs h) hcmd { s with inputs := rest } d l
  rw [step_of_settledMove hs hu] at h
  cases h
  exact step_of_settledMove (s := s.withHidden d l) hs hu'

end Sys2Proof.Machine
end

section
/-! ## The Slave Codec: `DEC_REQ`, `ENC_RSP`, and the request round trip (44_slave_codec.md R145 to R155) -/

namespace Sys2Proof.Machine

/-! ### The checks of `DEC_REQ` -/

/-- `DEC_REQ` is its checks, then its effect (R145). -/
theorem exec_decReq (f : Bool) (s : State) :
    exec (.decReq f) s = .next (s.conclude (decReqCheck f s) decReqEffect) := rfl

theorem exec_decReq_of_ok {f : Bool} {s : State} (h : decReqCheck f s = .ok) :
    exec (.decReq f) s = .next (decReqEffect s) := by
  rw [exec_decReq, h, State.conclude_ok]

theorem exec_decReq_of_error {f : Bool} {s : State} {e : Err} (h : decReqCheck f s = e) (he : e ≠ .ok) :
    exec (.decReq f) s = .next { s with status := e, result := 0 } := by
  rw [exec_decReq, h, State.conclude_error s he, State.fail_eq]

/-- The outcome of `DEC_REQ` is its first failing check, or `Ok` (R145, R173). -/
theorem status_of_exec_decReq {f : Bool} {s t : State} (h : exec (.decReq f) s = .next t) :
    t.status = decReqCheck f s := by
  obtain rfl := Host.Outcome.next.inj h
  rcases State.conclude_cases s (decReqCheck f s) decReqEffect with ⟨he, hc⟩ | ⟨-, hc⟩
  · rw [hc, he]; rfl
  · rw [hc]; rfl

/-- The checks in the numbers of R145, each as a proposition about FB, `LEN` and `DEVID`. -/
theorem decReqCheck_eq (f : Bool) (s : State) :
    decReqCheck f s =
      if f = false then .invalidArgument
      else if s.len.toNat < 8 then .bufferTooSmall
      else if ¬ ((1 ≤ (s.be16 4).toNat ∧ (s.be16 4).toNat ≤ 125) ∧ (s.fbRead 0).toNat ≤ 247 ∧
        (s.be16 2).toNat + (s.be16 4).toNat ≤ 0x10000) then .invalidRange
      else if s.fbRead 0 ≠ s.devid ∧ s.fbRead 0 ≠ 0 then .identityMismatch
      else if s.fbRead 1 ≠ 0x03 then .functionMismatch
      else if crc16 (s.fbBytes 6) ≠ s.le16 6 then .integrityError
      else .ok := by
  simp only [decReqCheck, ← Bool.not_eq_true, reqFieldsValid_iff, crcMatches_iff]
  rfl

/-- Settles O24: `selects_commandOf` at opcode 9; along the checks of `decReqCheck_eq`, then the effect of `DEC_REQ`. -/
theorem decReqFirstFailingCheckOrTriple : Obligations.DecReqFirstFailingCheckOrTriple := by
  refine ⟨selects_commandOf 0x9, fun s => exec_decReq_of_error rfl nofun, ?_⟩
  intro s a q ha hq
  have hcheck := decReqCheck_eq true s
  rw [if_neg (by simp), State.be16, State.be16, ← ha, ← hq] at hcheck
  refine ⟨fun hlen => exec_decReq_of_error (hcheck.trans (if_pos hlen)) nofun, fun hlen => ?_⟩
  rw [if_neg (Nat.not_lt.mpr hlen)] at hcheck
  refine ⟨fun hbad => exec_decReq_of_error (hcheck.trans (if_pos (by omega))) nofun,
    fun hq1 hq125 hsid haddr => ?_⟩
  rw [if_neg (not_not.mpr ⟨⟨hq1, hq125⟩, hsid, haddr⟩)] at hcheck
  refine ⟨fun hdev h0 => exec_decReq_of_error (hcheck.trans (if_pos ⟨hdev, h0⟩)) nofun, fun hid => ?_⟩
  rw [if_neg (by tauto)] at hcheck
  refine ⟨fun hfc => exec_decReq_of_error (hcheck.trans (if_pos hfc)) nofun, fun hfc => ?_⟩
  rw [if_neg (not_not.mpr hfc)] at hcheck
  refine ⟨fun hcrc => exec_decReq_of_error (hcheck.trans (if_pos hcrc)) nofun, fun hcrc => ?_⟩
  rw [exec_decReq_of_ok (hcheck.trans (if_neg (not_not.mpr hcrc))), decReqEffect_eq, ha, hq]
  rfl

/-! ### Broadcast requests and the unconfigured core -/

/-- A broadcast request passes the identity check whatever `DEVID` is (R148). -/
theorem decReqCheck_ne_identityMismatch {s : State} (h0 : s.fbRead 0 = 0) (f : Bool) :
    decReqCheck f s ≠ .identityMismatch := by
  have hid : ¬ (s.fbRead 0 ≠ s.devid ∧ s.fbRead 0 ≠ 0) := fun hid => hid.2 h0
  rw [decReqCheck_eq, if_neg hid]
  split_ifs <;> nofun

/-- Settles O25: the identity check of `decReqCheck_eq` and `decReqCheck_ok_iff`, at an id of 0 and at a `DEVID` of 0. -/
theorem decReqBroadcastAndUnconfigured : Obligations.DecReqBroadcastAndUnconfigured := by
  refine ⟨rfl, fun s t h0 h => ?_, fun s t hd h hst => ?_,
    fun s hlen hq1 hq125 haddr => ⟨fun h0 hfc hcrc d => ?_, fun hd h1 h247 => ?_⟩⟩
  · rw [status_of_exec_decReq h]
    exact decReqCheck_ne_identityMismatch h0 true
  · obtain ⟨hok, rfl⟩ := State.conclude_eq_effect h hst
    obtain ⟨-, -, -, hid, -, -⟩ := (decReqCheck_ok_iff true s).mp hok
    rw [decReqEffect_eq]
    exact hid.elim (·.trans hd) id
  · have hfields : reqFieldsValid s = true :=
      (reqFieldsValid_iff s).mpr ⟨⟨hq1, hq125⟩, by simp [h0], haddr⟩
    have hok : decReqCheck true { s with devid := d } = .ok :=
      (decReqCheck_ok_iff true _).mpr ⟨rfl, hlen, hfields, .inr h0, hfc, hcrc⟩
    exact ⟨_, exec_decReq_of_ok hok, rfl, h0, rfl⟩
  · have h0 : s.fbRead 0 ≠ 0 := by rintro h0; simp [h0] at h1
    refine exec_decReq_of_error ?_ nofun
    rw [decReqCheck_eq, if_neg (by simp), if_neg (Nat.not_lt.mpr hlen),
      if_neg (not_not.mpr ⟨⟨hq1, hq125⟩, h247, haddr⟩), if_pos ⟨hd ▸ h0, h0⟩]

/-! ### What `DEC_REQ` reads -/

/-- The first eight bytes of FB are all `DEC_REQ` depends on (R149). -/
theorem exec_decReq_withFb {f : Bool} {s : State} {m : FrameBuffer}
    (h : ∀ a, a < 8 → ({ s with fb := m } : State).fbRead a = s.fbRead a) :
    exec (.decReq f) { s with fb := m } = .next { s.conclude (decReqCheck f s) decReqEffect with fb := m } := by
  have hbe : ∀ a, a < 7 → ({ s with fb := m } : State).be16 a = s.be16 a := fun a ha =>
    State.be16_congr (h a (by omega)) (h (a + 1) (by omega))
  have hcheck : decReqCheck f { s with fb := m } = decReqCheck f s := by
    rw [decReqCheck_eq, decReqCheck_eq, hbe 4 (by omega), hbe 2 (by omega), h 0 (by omega), h 1 (by omega),
      State.fbBytes_congr fun a ha => h a (by omega), State.le16_congr (h 6 (by omega)) (h 7 (by omega))]
  have heff : decReqEffect { s with fb := m } = { decReqEffect s with fb := m } := by
    rw [decReqEffect_eq, decReqEffect_eq, hbe 4 (by omega), hbe 2 (by omega), h 0 (by omega)]
  rw [exec_decReq, hcheck, State.conclude_withFb heff]

/-- Settles O26: the two checks before the first read fail alike on any FB, and past them `exec_decReq_withFb` applies. -/
theorem decReqReadsOnlyEightBytes : Obligations.DecReqReadsOnlyEightBytes := by
  obtain ⟨-, hnull, hchecks⟩ := decReqFirstFailingCheckOrTriple
  have hshort : ∀ u : State, u.len.toNat < 8 →
      exec (.decReq true) u = .next { u with status := .bufferTooSmall, result := 0 } :=
    fun u => (hchecks u _ _ rfl rfl).1
  intro f s m h
  cases f with
  | false => exact ⟨_, hnull s, hnull _⟩
  | true =>
    rcases Nat.lt_or_ge s.len.toNat 8 with hlen | hlen
    · exact ⟨_, hshort s hlen, hshort _ hlen⟩
    · exact ⟨_, exec_decReq true s, exec_decReq_withFb (h rfl hlen)⟩

/-! ### `ENC_RSP` -/

/-- Settles O27: `selects_commandOf` at opcode 0xA; the hypothesis is that of `encRspCheck_ok_iff`, and where it holds the effect of `ENC_RSP` is known field by field and byte by byte. -/
theorem encRspEncodesOrFails : Obligations.EncRspEncodesOrFails := by
  refine ⟨selects_commandOf 0xA, ?_⟩
  rintro f r s q rfl
  have hok := encRspCheck_ok_iff f r s
  rw [and_assoc, show 5 + 2 * s.qty.toNat = 3 + 2 * s.qty.toNat + 2 by omega] at hok
  refine ⟨fun h => ?_, fun h => exec_encRsp_of_not_ok fun hc => h (hok.mp hc)⟩
  have hc := hok.mpr h
  obtain ⟨-, -, -, hq, -⟩ := h
  refine ⟨_, exec_encRsp_of_ok hc, encRspEffect_eq s, encRspEffect_fbBytes hq, fun a ha => ?_⟩
  rw [encRspEffect_read s hq, if_neg ha]

/-! ### The request round trip -/

section
variable {u : State} {v : Byte} {a q : Word} (hframe : u.fbBytes 8 = reqFrame v a q)
include hframe

/-- A request held in FB: its header, then the CRC of that (R74). -/
theorem fbBytes_of_reqFrame : u.fbBytes 6 = reqHeader v a q ∧ u.le16 6 = crc16 (reqHeader v a q) :=
  State.fbBytes_withCrc (bs := reqHeader v a q) hframe

/-- Its fields: the id, the function code, the start address, the quantity (R74). -/
theorem fields_of_reqFrame : u.fbRead 0 = v ∧ u.fbRead 1 = 0x03 ∧ u.be16 2 = a ∧ u.be16 4 = q := by
  obtain ⟨hheader, -⟩ := fbBytes_of_reqFrame hframe
  have hread : ∀ k, k < 6 → u.fbRead k = (reqHeader v a q).getD k 0 := fun k hk => by
    rw [List.getD_eq_getElem?_getD, State.fbRead_of_fbBytes hheader hk]; rfl
  refine ⟨hread 0 (by omega), hread 1 (by omega), ?_, ?_⟩
  · rw [State.be16, hread 2 (by omega), hread 3 (by omega)]
    exact joinBytes_hiByte_loByte a
  · rw [State.be16, hread 4 (by omega), hread 5 (by omega)]
    exact joinBytes_hiByte_loByte q

/-- A device of its id, or any for a broadcast, accepts a request whose fields are valid (R145). -/
theorem decReqCheck_of_reqFrame (hq : 1 ≤ q.toNat ∧ q.toNat ≤ 125) (hv : v.toNat ≤ 247)
    (haddr : a.toNat + q.toNat ≤ 0x10000) (hlen : 8 ≤ u.len.toNat) (hid : u.devid = v ∨ v = 0) :
    decReqCheck true u = .ok := by
  obtain ⟨hheader, hcrc⟩ := fbBytes_of_reqFrame hframe
  obtain ⟨h0, h1, h2, h4⟩ := fields_of_reqFrame hframe
  rw [decReqCheck_ok_iff, reqFieldsValid_iff, h0, h1, h2, h4, hheader, hcrc]
  exact ⟨rfl, hlen, ⟨hq, hv, haddr⟩, hid.imp_left Eq.symm, rfl, rfl⟩

end

/-- Settles O28: `ENC_REQ` left the request frame of its operands, every check of `DEC_REQ` passes on it, and its fields are the operands. -/
theorem requestRoundTrip : Obligations.RequestRoundTrip := by
  intro s t h hst u hu hlen hid
  obtain ⟨hc, rfl⟩ := State.conclude_eq_effect h hst
  obtain ⟨-, -, hq, hsid, haddr⟩ := (encReqCheck_ok_iff true s).mp hc
  have hframe : u.fbBytes 8 = reqFrame s.sid s.addr s.qty := by
    rw [State.fbBytes_congr hu, encReqEffect_fbBytes]
  obtain ⟨h0, -, h2, h4⟩ := fields_of_reqFrame hframe
  exact ⟨_, exec_decReq_of_ok (decReqCheck_of_reqFrame hframe hq hsid haddr hlen hid), rfl, h0, h2, h4⟩

end Sys2Proof.Machine
end

section
/-! ## Exceptions: the outcomes, what an error writes, and that no command reads an earlier outcome (60_exceptions.md R170 to R175) -/

namespace Sys2Proof.Machine

/-! ### What an error writes -/

/-- Settles O37: of the cases of `exec_cases` all but `State.fail` end in `Ok`, and `State.fail` writes the code and 0 alone. -/
theorem anErrorChangesOnlyStatusAndResult : Obligations.AnErrorChangesOnlyStatusAndResult := by
  intro i s t h herr
  rcases exec_cases_of_next h with ⟨e, -, -, rfl⟩ | ⟨hok, -⟩
  · exact s.fail_eq e
  · exact absurd hok herr

/-! ### Which outcomes a command has -/

/-- Settles O38: `exec_cases` has each outcome listed for its command, a failing code as well as `Ok`. -/
theorem outcomesOfEachCommandAreTheListed : Obligations.OutcomesOfEachCommandAreTheListed := by
  intro i s t h
  rcases exec_cases_of_next h with ⟨e, -, hmem, rfl⟩ | ⟨hok, hmem, -⟩
  · rwa [State.fail_status]
  · rwa [hok]

/-! ### No command reads an earlier outcome -/

/-- A command whose checks and effect do not read the outcome registers ends the same whatever they held: an error overwrites both (R174, R175). -/
theorem State.conclude_finish {s : State} {e : Err} {r : Word} {eff : State → State}
    (heff : eff (s.finish e r) = eff s) (c : Err) : (s.finish e r).conclude c eff = s.conclude c eff := by
  rcases State.conclude_cases s c eff with ⟨rfl, h⟩ | ⟨hc, h⟩
  · rw [h, State.conclude_ok, heff]
  · rw [h, State.conclude_error _ hc]; rfl

/-- `ENC_REQ` overwrites the outcome and does not read it (R120). -/
theorem encReqEffect_finish (s : State) (e : Err) (r : Word) : encReqEffect (s.finish e r) = encReqEffect s := by
  have h : encReqEffect (s.finish e r) = { encReqEffect s with devid := s.devid } :=
    encReqEffect_upd s e r s.devid s.lastreq
  rw [h, encReqEffect_eq]

/-- `ENC_RSP` overwrites the outcome and does not read it (R155). -/
theorem encRspEffect_finish (s : State) (e : Err) (r : Word) : encRspEffect (s.finish e r) = encRspEffect s := by
  have h : encRspEffect (s.finish e r) = { encRspEffect s with devid := s.devid, lastreq := s.lastreq } :=
    encRspEffect_upd s e r s.devid s.lastreq
  rw [h, encRspEffect_eq]

/-- `DEC_RSP` overwrites the outcome and does not read it (R125). -/
theorem decRspEffect_finish (s : State) (e : Err) (r : Word) : decRspEffect (s.finish e r) = decRspEffect s := by
  have h : decRspEffect (s.finish e r) = { decRspEffect s with devid := s.devid, lastreq := s.lastreq } :=
    decRspEffect_upd s e r s.devid s.lastreq
  rw [h, decRspEffect_eq]

/-- A command after another outcome ends the same (R30, R175): the commands with checks by `State.conclude_finish`, the others overwrite the outcome at once. -/
theorem exec_finish (i : Instr) (s : State) (e : Err) (r : Word) : exec i (s.finish e r) = exec i s := by
  cases i with
  | crc16 f => exact congrArg Host.Outcome.next (State.conclude_finish rfl (crc16Check f s))
  | setId => exact congrArg Host.Outcome.next (State.conclude_finish rfl (setIdCheck s))
  | decReq f => exact congrArg Host.Outcome.next (State.conclude_finish rfl (decReqCheck f s))
  | encReq f => exact congrArg Host.Outcome.next (State.conclude_finish (encReqEffect_finish s e r) (encReqCheck f s))
  | encRsp f b => exact congrArg Host.Outcome.next (State.conclude_finish (encRspEffect_finish s e r) (encRspCheck f b s))
  | decRsp f b => exact congrArg Host.Outcome.next (State.conclude_finish (decRspEffect_finish s e r) (decRspCheck f b s))
  | _ => rfl

/-- Settles O39: another outcome is `finish`, which `exec_finish` shows no command to read. -/
theorem earlierOutcomeNeverMatters : Obligations.EarlierOutcomeNeverMatters := exec_finish

/-! ### The numeric codes -/

/-- The codes 11 to 14 are no outcome's (R24, R171). -/
theorem Err.code_toNat (e : Err) : e.code.toNat ≤ 10 ∨ e.code.toNat = 15 := by
  cases e <;> decide

/-- `STATUS` as the host reads it is, as a number, the code: nothing stands above it (R24). -/
theorem Err.statusWord_toNat (e : Err) : e.statusWord.toNat = e.code.toNat :=
  BitVec.toNat_setWidth_of_le (by decide)

/-- Settles O51: the table of `Err.code`, and the two facts about `Err.statusWord`, which is what the host reads. -/
theorem statusCodesAreTheTable : Obligations.StatusCodesAreTheTable := by
  refine ⟨rfl, fun s => ⟨rfl, ?_⟩⟩
  have hread : (s.readReg .status).toNat = s.status.code.toNat := s.status.statusWord_toNat
  rw [hread]
  exact s.status.code_toNat

end Sys2Proof.Machine
end

section
/-! ## Reset and hazards: the reset input, and a changed byte of an accepted frame (70_reset_and_hazards.md R190, R201) -/

namespace Sys2Proof.Machine

/-! ### The reset input -/

/-- Settles O53: the step is `State.takeReset`, whose registers are reset values by definition and whose buffers are fresh. -/
theorem resetInputSetsEveryRegister : Obligations.ResetInputSetsEveryRegister :=
  fun s _ hs => ⟨_, step_of_settled (fetch_reset hs), rfl, rfl, rfl, rfl, rfl, rfl, rfl, rfl, rfl, rfl, rfl, rfl, rfl,
    freshFb_wf (s.epoch + 1), freshRb_wf (s.epoch + 1), rfl, rfl⟩

/-! ### A changed byte against the received CRC -/

theorem State.fbRead_fbWrite_of_ne (s : State) {a k : Nat} (b : Byte) (h : a ≠ k) :
    (s.fbWrite k b).fbRead a = s.fbRead a := by
  rw [State.fbRead_fbWrite, if_neg h]

/-- A write into FB replaces its byte among the first bytes of FB. -/
theorem State.fbBytes_fbWrite (s : State) (n k : Nat) (b : Byte) :
    (s.fbWrite k b).fbBytes n = (s.fbBytes n).set k b := by
  apply List.ext_getElem?
  intro i
  rw [List.getElem?_set, State.fbBytes_length, State.fbBytes_getElem?, State.fbBytes_getElem?, State.fbRead_fbWrite]
  by_cases h : k = i
  · simp [h]
  · simp [h, Ne.symm h]

/-- Replacing one byte of a sequence by another changes its CRC (R105 (e)). -/
theorem crc16_set_ne {bs : List Byte} {k : Nat} (hk : k < bs.length) {b : Byte} (hb : b ≠ bs[k]) :
    crc16 (bs.set k b) ≠ crc16 bs := by
  have hsplit : bs = bs.take k ++ bs[k] :: bs.drop (k + 1) := by simp
  rw [List.set_eq_take_append_cons_drop, if_pos hk]
  conv_rhs => rw [hsplit]
  exact oneChangedByteChangesTheCrc _ _ _ _ hb

/-- Bytes of FB followed by their CRC have CRC 0 together with it (R105 (d)). -/
theorem State.crc16_fbBytes_eq_zero {s : State} {n : Nat} (h : crc16 (s.fbBytes n) = s.le16 n) :
    crc16 (s.fbBytes (n + 2)) = 0 := by
  have hframe : s.fbBytes (n + 2) = s.fbBytes n ++ [loByte (s.le16 n), hiByte (s.le16 n)] := by
    rw [State.fbBytes_succ, State.fbBytes_succ, State.le16, loByte_joinBytes, hiByte_joinBytes, List.append_assoc]
    rfl
  rw [hframe, ← h]
  exact crcResidueIsZero _

/-- Where the received CRC matches, it no longer does after a change of any one byte, be it of the CRC itself: both sequences with their CRC would have CRC 0 (R105 (d), (e), R201). -/
theorem State.crc16_fbWrite_ne_le16 {s : State} {n k : Nat} {b : Byte} (h : crc16 (s.fbBytes n) = s.le16 n)
    (hk : k < n + 2) (hb : b ≠ s.fbRead k) :
    crc16 ((s.fbWrite k b).fbBytes n) ≠ (s.fbWrite k b).le16 n := by
  intro h'
  have hlen : k < (s.fbBytes (n + 2)).length := by rwa [State.fbBytes_length]
  have hread : (s.fbBytes (n + 2))[k] = s.fbRead k := by simp [State.fbBytes]
  have hzero : crc16 ((s.fbWrite k b).fbBytes (n + 2)) = 0 := State.crc16_fbBytes_eq_zero h'
  rw [State.fbBytes_fbWrite] at hzero
  exact crc16_set_ne hlen (hread ▸ hb) (hzero.trans (State.crc16_fbBytes_eq_zero h).symm)

/-! ### A changed byte of a request -/

/-- Settles O30: both the frame and the changed frame would pass the CRC check, against `State.crc16_fbWrite_ne_le16`. -/
theorem corruptedRequestByteIsRejected : Obligations.CorruptedRequestByteIsRejected := by
  intro s t k b h hst hk hb
  obtain ⟨hok, -⟩ := State.conclude_eq_effect h hst
  obtain ⟨-, -, -, -, -, hcrc⟩ := (decReqCheck_ok_iff true s).mp hok
  refine ⟨_, exec_decReq true _, fun hst' => ?_⟩
  obtain ⟨hok', -⟩ := State.conclude_eq_effect rfl hst'
  obtain ⟨-, -, -, -, -, hcrc'⟩ := (decReqCheck_ok_iff true _).mp hok'
  exact State.crc16_fbWrite_ne_le16 hcrc hk hb hcrc'

/-! ### A changed byte of a response -/

/-- The outcome of `DEC_RSP` is its first failing check, or `Ok` (R125, R173). -/
theorem exec_decRsp_status (f r : Bool) (s : State) :
    ∃ t, exec (.decRsp f r) s = .next t ∧ t.status = decRspCheck f r s := by
  refine ⟨_, exec_decRsp f r s, ?_⟩
  rcases State.conclude_cases s (decRspCheck f r s) decRspEffect with ⟨he, hc⟩ | ⟨-, hc⟩
  · rw [hc, he]; rfl
  · rw [hc]; rfl

section
variable {s : State} (hok : decRspCheck true true s = .ok) {b : Byte}
include hok

/-- With another byte than `byte_count` changed, the frame keeps its length and its CRC does not match. -/
theorem decRspCheck_fbWrite_ne_ok {k : Nat} (hk : k < (s.fbRead 2).toNat + 5) (hb : b ≠ s.fbRead k) (hk2 : k ≠ 2) :
    decRspCheck true true (s.fbWrite k b) ≠ .ok := by
  intro hok'
  obtain ⟨-, -, -, -, -, -, -, hcrc⟩ := (decRspCheck_ok_iff true true s).mp hok
  obtain ⟨-, -, -, -, -, -, -, hcrc'⟩ := (decRspCheck_ok_iff true true _).mp hok'
  rw [State.fbRead_fbWrite_of_ne s b hk2.symm] at hcrc'
  exact State.crc16_fbWrite_ne_le16 hcrc (by omega) hb hcrc'

/-- With `byte_count` changed, the two checks of the header before it still pass: what is left are those that read it. -/
theorem decRspCheck_fbWrite_byteCount :
    decRspCheck true true (s.fbWrite 2 b) =
      if ¬ (2 ≤ b.toNat ∧ b.toNat ≤ 250) then .invalidByteCount
      else if s.len.toNat < b.toNat + 5 then .bufferTooSmall
      else if s.ocap.toNat < b.toNat / 2 then .outputTooSmall
      else if crc16 ((s.fbWrite 2 b).fbBytes (3 + b.toNat)) ≠ s.le16 (3 + b.toNat) then .integrityError
      else .ok := by
  obtain ⟨-, -, h0, h1, -⟩ := (decRspCheck_ok_iff true true s).mp hok
  have hread0 : (s.fbWrite 2 b).fbRead 0 = s.fbRead 0 := State.fbRead_fbWrite_of_ne s b (by omega)
  have hread1 : (s.fbWrite 2 b).fbRead 1 = s.fbRead 1 := State.fbRead_fbWrite_of_ne s b (by omega)
  have hread2 : (s.fbWrite 2 b).fbRead 2 = b := by rw [State.fbRead_fbWrite, if_pos rfl]
  have hcrc : (s.fbWrite 2 b).le16 (3 + b.toNat) = s.le16 (3 + b.toNat) :=
    State.le16_congr (State.fbRead_fbWrite_of_ne s b (by omega)) (State.fbRead_fbWrite_of_ne s b (by omega))
  rw [decRspCheck_eq, hread0, hread1, hread2, hcrc, if_neg (by simp), State.fbWrite_lastreq,
    if_neg (not_not.mpr h0), if_neg (not_not.mpr h1)]
  rfl

/-- A raised `byte_count` is out of range or asks for more than `LEN`, when that is the true frame length (R201). -/
theorem decRspCheck_raisedByteCount (hlen : s.len.toNat = (s.fbRead 2).toNat + 5) (hb : (s.fbRead 2).toNat < b.toNat) :
    decRspCheck true true (s.fbWrite 2 b) = .invalidByteCount ∨
      decRspCheck true true (s.fbWrite 2 b) = .bufferTooSmall := by
  rw [decRspCheck_fbWrite_byteCount hok]
  by_cases hrange : 2 ≤ b.toNat ∧ b.toNat ≤ 250
  · rw [if_neg (not_not.mpr hrange), if_pos (by omega)]
    exact .inr rfl
  · rw [if_pos hrange]
    exact .inl rfl

/-- A lowered `byte_count` is out of range, or passes every check before the CRC of the shorter frame (R201). -/
theorem decRspCheck_loweredByteCount (hb : b.toNat < (s.fbRead 2).toNat) :
    decRspCheck true true (s.fbWrite 2 b) = .invalidByteCount ∨
      decRspCheck true true (s.fbWrite 2 b) = .integrityError ∨
      decRspCheck true true (s.fbWrite 2 b) = .ok ∧
        crc16 ((s.fbWrite 2 b).fbBytes (3 + b.toNat)) = s.le16 (3 + b.toNat) := by
  obtain ⟨-, -, -, -, -, hlen, hcap, -⟩ := (decRspCheck_ok_iff true true s).mp hok
  rw [decRspCheck_fbWrite_byteCount hok]
  by_cases hrange : 2 ≤ b.toNat ∧ b.toNat ≤ 250
  · rw [if_neg (not_not.mpr hrange), if_neg (by omega), if_neg (by omega)]
    by_cases hcrc : crc16 ((s.fbWrite 2 b).fbBytes (3 + b.toNat)) = s.le16 (3 + b.toNat)
    · exact .inr (.inr ⟨if_neg (not_not.mpr hcrc), hcrc⟩)
    · exact .inr (.inl (if_pos hcrc))
  · rw [if_pos hrange]
    exact .inl rfl

end

/-- Settles O31: the outcome is that of the checks, and the three clauses are `decRspCheck_fbWrite_ne_ok`, `decRspCheck_raisedByteCount` and `decRspCheck_loweredByteCount`. -/
theorem corruptedResponseByteIsRejected : Obligations.CorruptedResponseByteIsRejected := by
  intro s t k b h hst hk hb
  obtain ⟨hok, -⟩ := State.conclude_eq_effect h hst
  obtain ⟨u, hu, hstatus⟩ := exec_decRsp_status true true (s.fbWrite k b)
  refine ⟨fun hk2 => ⟨u, hu, ?_⟩, ?_, ?_⟩
  · rw [hstatus]
    exact decRspCheck_fbWrite_ne_ok hok hk hb hk2
  · rintro rfl hlen hraise
    exact ⟨u, hu, hstatus ▸ decRspCheck_raisedByteCount hok hlen hraise⟩
  · rintro rfl hlower
    exact ⟨u, hu, hstatus ▸ decRspCheck_loweredByteCount hok hlower⟩

end Sys2Proof.Machine
end
